-- ==== Sys2Proof/Word.lean ====
section
/-! DEFINITION. The words of the engine: bytes, wire fields and clock readings (00_scope.md R15, R21). -/

namespace Sys2Proof

/-- `u8`: the byte of a frame, of the working buffer and of the checksum (00_scope.md R15). -/
abbrev Byte := BitVec 8

/-- `u16`: a two-byte wire field, and a logical channel value (00_scope.md R15; 41_encoder.md R131). -/
abbrev Half := BitVec 16

/-- `u24`: the battery capacity field (10_state.md R40). -/
abbrev Word24 := BitVec 24

/-- `u32`: a four-byte wire field (00_scope.md R15). -/
abbrev Word32 := BitVec 32

/-- A reading of the host's clock, a `u32` count of milliseconds (00_scope.md R21). -/
abbrev Time := BitVec 32

end Sys2Proof
end

