-- ==== Sys2Proof/Machine/Constants.lean ====
section
/-! DEFINITION. The fixed and decided parameters of 00_scope.md R12, the frame-type map of 30_encoding.md R85 and the
operation codes of R100. -/

namespace Sys2Proof

/-- `MIN_FRAME_SIZE` (00_scope.md R12). -/
def minFrameSize : Nat := 3

/-- `MAX_FRAME_SIZE` (00_scope.md R12). -/
def maxFrameSize : Nat := 64

/-- `CAPACITY`, the bytes of the working buffer: `MAX_FRAME_SIZE + 3` (00_scope.md R12; C6). -/
def capacity : Nat := 67

/-- `CHANNEL_COUNT` (00_scope.md R12). -/
def channelCount : Nat := 16

/-- `CHANNEL_BITS` (00_scope.md R12). -/
def channelBits : Nat := 11

/-- `CHANNELS_PAYLOAD_LEN` (00_scope.md R12). -/
def channelsPayloadLen : Nat := 22

/-- `ADDR_CONTROLLER` (30_encoding.md R87). -/
def addrController : Byte := 0xEE

/-- `ADDR_RADIO` (30_encoding.md R87). -/
def addrRadio : Byte := 0xEA

/-- `ACCEPT_ADDRS`, the addresses the dispatcher acts on (43_dispatcher.md R181; the spec's decision D6). -/
def acceptAddrs : List Byte := [addrRadio]

/-- `CHANNELS_OUT_ADDR`, byte 0 of an encoded channels frame (30_encoding.md R97; the spec's decision D4). -/
def channelsOutAddr : Byte := addrController

/-- Frame type of packed channels, outbound and inbound (30_encoding.md R85). -/
def typeChannels : Byte := 0x16

/-- Frame type of a command write, outbound only (30_encoding.md R85). -/
def typeCommand : Byte := 0x2D

/-- Frame type of battery telemetry (30_encoding.md R85). -/
def typeBattery : Byte := 0x08

/-- Frame type of GPS telemetry (30_encoding.md R85). -/
def typeGps : Byte := 0x02

/-- Frame type of vario telemetry (30_encoding.md R85). -/
def typeVario : Byte := 0x07

/-- Frame type of barometric-altitude telemetry (30_encoding.md R85). -/
def typeBaro : Byte := 0x09

/-- Frame type of attitude telemetry (30_encoding.md R85). -/
def typeAttitude : Byte := 0x1E

/-- Frame type of link statistics (30_encoding.md R85). -/
def typeLinkStats : Byte := 0x14

/-- `LAYOUT_LEN`: the payload length of each of the seven inbound types; none for an unrecognized type
(43_dispatcher.md R180; 30_encoding.md R85). -/
def layoutLen (type : Byte) : Option Nat :=
  if type = typeChannels then some 22
  else if type = typeBattery then some 8
  else if type = typeGps then some 15
  else if type = typeVario then some 2
  else if type = typeBaro then some 4
  else if type = typeAttitude then some 6
  else if type = typeLinkStats then some 10
  else none

/-- Operation code of RESET (30_encoding.md R100). -/
def opReset : Byte := 0x00

/-- Operation code of RX_BYTE (30_encoding.md R100). -/
def opRxByte : Byte := 0x01

/-- Operation code of POLL (30_encoding.md R100). -/
def opPoll : Byte := 0x02

/-- Operation code of ENC_CHANNELS (30_encoding.md R100). -/
def opEncChannels : Byte := 0x03

/-- Operation code of ENC_COMMAND (30_encoding.md R100). -/
def opEncCommand : Byte := 0x04

/-- Operation code of CRC8 (30_encoding.md R100). -/
def opCrc8 : Byte := 0x05

/-- Operation code of UNPACK_CHANNELS (30_encoding.md R100). -/
def opUnpackChannels : Byte := 0x06

end Sys2Proof
end

