-- ==== Sys2Proof/Machine/Frame.lean ====
section
/-! DEFINITION. The frame: its fields, its wire image and when it is valid (30_encoding.md R80 to R84;
42_reassembler.md R154). What computes a checksum takes the instance's table, with the default of 40_checksum.md R122. -/

namespace Sys2Proof

/-- One complete protocol message, field by field (00_scope.md R24; 30_encoding.md R80, R81). -/
structure Frame where
  deviceAddr : Byte
  frameSize  : Byte
  type       : Byte
  payload    : List Byte
  crc        : Byte
  deriving DecidableEq, Repr

/-- The frame's bytes in wire order (30_encoding.md R80). -/
def Frame.bytes (f : Frame) : List Byte :=
  f.deviceAddr :: f.frameSize :: f.type :: (f.payload ++ [f.crc])

/-- The bytes the checksum covers: type and payload, offsets 2..fs (30_encoding.md R82; C1). -/
def Frame.body (f : Frame) : List Byte := f.type :: f.payload

/-- The length test on a frame-size byte: `MIN_FRAME_SIZE ≤ fs ≤ MAX_FRAME_SIZE` (30_encoding.md R83, R84). -/
def sizeOk (fs : Byte) : Bool := minFrameSize ≤ fs.toNat && fs.toNat ≤ maxFrameSize

/-- A valid frame: a legal size byte, a payload of that many bytes less two, and a matching checksum
(30_encoding.md R80, R82; 42_reassembler.md R154). -/
def Frame.valid (f : Frame) (table : CrcTable := crcTable) : Bool :=
  sizeOk f.frameSize && f.payload.length + 2 == f.frameSize.toNat && crc8 f.body table == f.crc

/-- The frame with this address, type and payload: `frame_size` counts type, payload and checksum, and the checksum is
computed (30_encoding.md R80, R82). -/
def Frame.build (deviceAddr type : Byte) (payload : List Byte) (table : CrcTable := crcTable) : Frame where
  deviceAddr := deviceAddr
  frameSize  := BitVec.ofNat 8 (payload.length + 2)
  type       := type
  payload    := payload
  crc        := crc8 (type :: payload) table

/-- The encoded channels frame for a packed payload (30_encoding.md R97). -/
def channelsFrame (payload : List Byte) (table : CrcTable := crcTable) : Frame :=
  Frame.build channelsOutAddr typeChannels payload table

/-- The encoded command frame: destination 0xEE, origin 0xEA (30_encoding.md R90, R98; 41_encoder.md R133). -/
def commandFrame (commandId value : Byte) (table : CrcTable := crcTable) : Frame :=
  Frame.build addrController typeCommand [addrController, addrRadio, commandId, value] table

end Sys2Proof
end

