-- ==== Sys2Proof/Machine/Operands.lean ====
section
/-! DEFINITION. Operand forms: big-endian field extraction and assembly, extension, channel masking (00_scope.md R17,
R18; 30_encoding.md R99, R101; 41_encoder.md R131). None of these reads the engine's state. -/

namespace Sys2Proof

/-- `be8(s, o)`; none where the sequence has no byte there (00_scope.md R17). -/
def be8 (s : List Byte) (o : Nat) : Option Byte := s[o]?

/-- `be16(s, o)`: the byte at the lower offset is the more significant (00_scope.md R17; 20_memory.md R63). -/
def be16 (s : List Byte) (o : Nat) : Option Half :=
  match s[o]?, s[o + 1]? with
  | some b1, some b0 => some (b1 ++ b0)
  | _, _ => none

/-- `be24(s, o)` (00_scope.md R17; 20_memory.md R67). -/
def be24 (s : List Byte) (o : Nat) : Option Word24 :=
  match s[o]?, s[o + 1]?, s[o + 2]? with
  | some b2, some b1, some b0 => some (b2 ++ b1 ++ b0)
  | _, _, _ => none

/-- `be32(s, o)` (00_scope.md R17). -/
def be32 (s : List Byte) (o : Nat) : Option Word32 :=
  match s[o]?, s[o + 1]?, s[o + 2]?, s[o + 3]? with
  | some b3, some b2, some b1, some b0 => some (b3 ++ b2 ++ b1 ++ b0)
  | _, _, _, _ => none

/-- The two bytes of a `u16` operand, high first (30_encoding.md R101). -/
def beBytes16 (v : Half) : List Byte := [v.extractLsb' 8 8, v.extractLsb' 0 8]

/-- The four bytes of a `u32` operand, high first (30_encoding.md R101). -/
def beBytes32 (v : Word32) : List Byte :=
  [v.extractLsb' 24 8, v.extractLsb' 16 8, v.extractLsb' 8 8, v.extractLsb' 0 8]

/-- The first `n` bytes and what follows them; none where fewer are there. -/
def takeBytes (n : Nat) (s : List Byte) : Option (List Byte × List Byte) :=
  if n ≤ s.length then some (s.take n, s.drop n) else none

/-- Bytes paired into `u16` operands, high byte first (30_encoding.md R101, ENC_CHANNELS). A last odd byte is dropped;
the decoder gives 32 bytes. -/
def halvesOf : List Byte → List Half
  | b1 :: b0 :: rest => (b1 ++ b0) :: halvesOf rest
  | _ => []

/-- `zext_N(v)` (00_scope.md R18). -/
def zext (n : Nat) {w : Nat} (v : BitVec w) : BitVec n := v.zeroExtend n

/-- `sext_N(v)` (00_scope.md R18). -/
def sext (n : Nat) {w : Nat} (v : BitVec w) : BitVec n := v.signExtend n

/-- `signed_W(v)`: the two's-complement reading (00_scope.md R18). -/
def signedW {w : Nat} (v : BitVec w) : Int := v.toInt

/-- `ch[i][10:0]`: the low 11 bits of a channel value's two's-complement pattern; a mask, not a clamp
(41_encoder.md R131; C3). -/
def maskChannel (c : Half) : BitVec 11 := c.extractLsb' 0 11

end Sys2Proof
end

