-- ==== Sys2Proof/Syntax.lean ====
section
/-! DEFINITION. The instructions: one constructor per row of spec/opcode_table.json, and the port an instruction's
bytes come by. -/

namespace Sys2Proof

/-- Where an instruction's bytes come from, hence which decoder reads them (log 2). A host operation comes by the
operation stream (30_encoding.md R101). A frame row of the opcode table is a frame at one of two places: an inbound
frame handed over at a clock reading (43_dispatcher.md R180), or an outbound frame at the encoder's output
(41_encoder.md R132, R133). -/
inductive Port where
  | operation
  | inbound (now : Time)
  | outbound
  deriving DecidableEq, Repr

/-- The rows of spec/opcode_table.json. Operands are as the spec decodes them; their checks are in WellFormed.lean. -/
inductive Instr where
  /-- RESET (70_reset_and_hazards.md R250). -/
  | reset
  /-- RX_BYTE (42_reassembler.md R156). -/
  | rxByte (b : Byte) (now : Time)
  /-- POLL (44_link_state.md R222). -/
  | poll (now : Time)
  /-- ENC_CHANNELS (41_encoder.md R132): sixteen `i16` values. -/
  | encChannels (ch : List Half)
  /-- ENC_COMMAND (41_encoder.md R133). -/
  | encCommand (commandId value : Byte)
  /-- CRC8 (40_checksum.md R120): its length operand `n` is the number of data bytes. -/
  | crc8 (data : List Byte)
  /-- UNPACK_CHANNELS (43_dispatcher.md R198): 22 bytes. -/
  | unpackChannels (payload : List Byte)
  /-- RESERVED, opcode byte 0x07 (30_encoding.md R102). -/
  | reserved07
  /-- RESERVED, opcode bytes 0x08..0x0F (30_encoding.md R102). -/
  | reserved08 (low : BitVec 3)
  /-- RESERVED, opcode bytes 0x10..0x1F (30_encoding.md R102). -/
  | reserved10 (low : BitVec 4)
  /-- RESERVED, opcode bytes 0x20..0x3F (30_encoding.md R102). -/
  | reserved20 (low : BitVec 5)
  /-- RESERVED, opcode bytes 0x40..0x7F (30_encoding.md R102). -/
  | reserved40 (low : BitVec 6)
  /-- RESERVED, opcode bytes 0x80..0xFF (30_encoding.md R102). -/
  | reserved80 (low : BitVec 7)
  /-- FRAME_CHANNELS_OUT (30_encoding.md R97): the 22-byte payload. -/
  | frameChannelsOut (payload : List Byte)
  /-- FRAME_COMMAND_OUT (30_encoding.md R98). -/
  | frameCommandOut (commandId value : Byte)
  /-- FRAME_CHANNELS_IN (43_dispatcher.md R187). -/
  | frameChannelsIn (payload : List Byte) (now : Time)
  /-- FRAME_BATTERY (43_dispatcher.md R189). -/
  | frameBattery (payload : List Byte) (now : Time)
  /-- FRAME_GPS (43_dispatcher.md R190). -/
  | frameGps (payload : List Byte) (now : Time)
  /-- FRAME_VARIO (43_dispatcher.md R191). -/
  | frameVario (payload : List Byte) (now : Time)
  /-- FRAME_BARO (43_dispatcher.md R192). -/
  | frameBaro (payload : List Byte) (now : Time)
  /-- FRAME_ATTITUDE (43_dispatcher.md R193). -/
  | frameAttitude (payload : List Byte) (now : Time)
  /-- FRAME_LINK_STATS (43_dispatcher.md R194). -/
  | frameLinkStats (payload : List Byte) (now : Time)
  /-- FRAME_OTHER_IN (43_dispatcher.md R195, R181): any other inbound frame. -/
  | frameOtherIn (deviceAddr type : Byte) (payload : List Byte) (now : Time)
  deriving DecidableEq, Repr

/-- The port each instruction's bytes come by. -/
def Instr.port : Instr → Port
  | .reset => .operation
  | .rxByte _ _ => .operation
  | .poll _ => .operation
  | .encChannels _ => .operation
  | .encCommand _ _ => .operation
  | .crc8 _ => .operation
  | .unpackChannels _ => .operation
  | .reserved07 => .operation
  | .reserved08 _ => .operation
  | .reserved10 _ => .operation
  | .reserved20 _ => .operation
  | .reserved40 _ => .operation
  | .reserved80 _ => .operation
  | .frameChannelsOut _ => .outbound
  | .frameCommandOut _ _ => .outbound
  | .frameChannelsIn _ now => .inbound now
  | .frameBattery _ now => .inbound now
  | .frameGps _ now => .inbound now
  | .frameVario _ now => .inbound now
  | .frameBaro _ now => .inbound now
  | .frameAttitude _ now => .inbound now
  | .frameLinkStats _ now => .inbound now
  | .frameOtherIn _ _ _ now => .inbound now

end Sys2Proof
end

