-- ==== Sys2Proof/WellFormed.lean ====
section
/-! DEFINITION. Which terms of Instr are instructions of the engine: the operand counts of 30_encoding.md R101 and the
payload bounds of 00_scope.md R13. -/

namespace Sys2Proof

/-- A payload length a frame can have: 1..62 (00_scope.md R13). -/
def payloadLenOk (payload : List Byte) : Bool := 1 ≤ payload.length && payload.length ≤ 62

/-- An inbound frame with this address and type is a row of its own, so FRAME_OTHER_IN does not stand for it
(spec/opcode_table.json, "catch-all, lowest priority"). -/
def hasOwnRow (deviceAddr type : Byte) : Bool := deviceAddr == addrRadio && (layoutLen type).isSome

/-- The check on an instruction's operands. -/
def Instr.wellFormed : Instr → Bool
  | .reset => true
  | .rxByte _ _ => true
  | .poll _ => true
  | .encChannels ch => ch.length == 16
  | .encCommand _ _ => true
  | .crc8 data => data.length ≤ 255
  | .unpackChannels payload => payload.length == 22
  | .reserved07 => true
  | .reserved08 _ => true
  | .reserved10 _ => true
  | .reserved20 _ => true
  | .reserved40 _ => true
  | .reserved80 _ => true
  | .frameChannelsOut payload => payload.length == 22
  | .frameCommandOut _ _ => true
  | .frameChannelsIn payload _ => payloadLenOk payload
  | .frameBattery payload _ => payloadLenOk payload
  | .frameGps payload _ => payloadLenOk payload
  | .frameVario payload _ => payloadLenOk payload
  | .frameBaro payload _ => payloadLenOk payload
  | .frameAttitude payload _ => payloadLenOk payload
  | .frameLinkStats payload _ => payloadLenOk payload
  | .frameOtherIn deviceAddr type payload _ => payloadLenOk payload && !hasOwnRow deviceAddr type

end Sys2Proof
end

