-- ==== Sys2Proof/Decode.lean ====
section
/-! DEFINITION. The decoder, total on any bytes and rejecting by name, and after it the encoder (30_encoding.md R80 to
R102). The operation stream is read by opcode byte (R101); a frame is read by its size byte (R83) and checked with the
instance's checksum table. -/

namespace Sys2Proof

/-- Why bytes spell no instruction. -/
inductive DecodeError where
  /-- No byte is there. Raised for an empty frame port; an empty operation stream is idle, not an error. -/
  | noBytes
  /-- An operation whose operand bytes are not all there (60_exceptions.md R243; log 12). -/
  | truncatedOperation (opcode : Byte)
  /-- CRC8 declares more data bytes than are supplied (60_exceptions.md R243 (c)). -/
  | crc8LengthMismatch (declared supplied : Nat)
  /-- A frame-size byte outside 3..64 (30_encoding.md R84). -/
  | badFrameSize (frameSize : Byte)
  /-- Fewer bytes than the frame's size byte tells (30_encoding.md R83). -/
  | truncatedFrame
  /-- The checksum byte is not the CRC8 of type and payload (30_encoding.md R82). -/
  | badFrameChecksum (computed received : Byte)
  /-- A valid frame that is neither image of the encoder (30_encoding.md R97, R98). -/
  | notAnEncodedFrame (deviceAddr type : Byte)
  deriving DecidableEq, Repr

/-- RX_BYTE's operands `b t3 t2 t1 t0` (30_encoding.md R101). -/
def decodeRxByte : List Byte → Except DecodeError (Instr × List Byte)
  | b :: t3 :: t2 :: t1 :: t0 :: rest => .ok (.rxByte b (t3 ++ t2 ++ t1 ++ t0), rest)
  | _ => .error (.truncatedOperation opRxByte)

/-- POLL's operand `t3 t2 t1 t0` (30_encoding.md R101). -/
def decodePoll : List Byte → Except DecodeError (Instr × List Byte)
  | t3 :: t2 :: t1 :: t0 :: rest => .ok (.poll (t3 ++ t2 ++ t1 ++ t0), rest)
  | _ => .error (.truncatedOperation opPoll)

/-- ENC_CHANNELS's operands, sixteen values of two bytes (30_encoding.md R101). -/
def decodeEncChannels (bytes : List Byte) : Except DecodeError (Instr × List Byte) :=
  match takeBytes 32 bytes with
  | some (operands, rest) => .ok (.encChannels (halvesOf operands), rest)
  | none => .error (.truncatedOperation opEncChannels)

/-- ENC_COMMAND's operands `id value` (30_encoding.md R101). -/
def decodeEncCommand : List Byte → Except DecodeError (Instr × List Byte)
  | commandId :: value :: rest => .ok (.encCommand commandId value, rest)
  | _ => .error (.truncatedOperation opEncCommand)

/-- CRC8's operands `n data...`: the length is told by the byte n (30_encoding.md R101; 60_exceptions.md R243 (c)). -/
def decodeCrc8 : List Byte → Except DecodeError (Instr × List Byte)
  | [] => .error (.truncatedOperation opCrc8)
  | n :: bytes =>
    match takeBytes n.toNat bytes with
    | some (data, rest) => .ok (.crc8 data, rest)
    | none => .error (.crc8LengthMismatch n.toNat bytes.length)

/-- UNPACK_CHANNELS's operand, 22 bytes (30_encoding.md R101). -/
def decodeUnpackChannels (bytes : List Byte) : Except DecodeError (Instr × List Byte) :=
  match takeBytes 22 bytes with
  | some (payload, rest) => .ok (.unpackChannels payload, rest)
  | none => .error (.truncatedOperation opUnpackChannels)

/-- The row of a reserved opcode byte 0x07..0xFF (30_encoding.md R102). -/
def decodeReserved (opcode : Byte) : Instr :=
  if opcode.toNat < 0x08 then .reserved07
  else if opcode.toNat < 0x10 then .reserved08 (opcode.extractLsb' 0 3)
  else if opcode.toNat < 0x20 then .reserved10 (opcode.extractLsb' 0 4)
  else if opcode.toNat < 0x40 then .reserved20 (opcode.extractLsb' 0 5)
  else if opcode.toNat < 0x80 then .reserved40 (opcode.extractLsb' 0 6)
  else .reserved80 (opcode.extractLsb' 0 7)

/-- The operation at the front of the operation stream, and what follows it (30_encoding.md R101). -/
def decodeOperation : List Byte → Except DecodeError (Instr × List Byte)
  | [] => .error .noBytes
  | opcode :: bytes =>
    if opcode = opReset then .ok (.reset, bytes)
    else if opcode = opRxByte then decodeRxByte bytes
    else if opcode = opPoll then decodePoll bytes
    else if opcode = opEncChannels then decodeEncChannels bytes
    else if opcode = opEncCommand then decodeEncCommand bytes
    else if opcode = opCrc8 then decodeCrc8 bytes
    else if opcode = opUnpackChannels then decodeUnpackChannels bytes
    else .ok (decodeReserved opcode, bytes)

/-- Everything after a frame's size byte: type, payload of `frame_size - 2` bytes, checksum (30_encoding.md R81,
R83). -/
def splitFrame (deviceAddr frameSize : Byte) : List Byte → Option (Frame × List Byte)
  | [] => none
  | type :: bytes =>
    match takeBytes (frameSize.toNat - 2) bytes with
    | some (payload, crc :: rest) => some (⟨deviceAddr, frameSize, type, payload, crc⟩, rest)
    | _ => none

/-- The valid frame at the front of a byte sequence, and what follows it (30_encoding.md R80 to R84). -/
def decodeFrame (bytes : List Byte) (table : CrcTable := crcTable) : Except DecodeError (Frame × List Byte) :=
  match bytes with
  | [] => .error .noBytes
  | [_] => .error .truncatedFrame
  | deviceAddr :: frameSize :: bytes =>
    if sizeOk frameSize then
      match splitFrame deviceAddr frameSize bytes with
      | none => .error .truncatedFrame
      | some (f, rest) =>
        if crc8 f.body table = f.crc then .ok (f, rest) else .error (.badFrameChecksum (crc8 f.body table) f.crc)
    else .error (.badFrameSize frameSize)

/-- The row of an inbound frame: its own where the address is the radio's and the type has one, else the catch-all
(spec/opcode_table.json; 43_dispatcher.md R180, R181, R195). -/
def inboundInstr (f : Frame) (now : Time) : Instr :=
  if f.deviceAddr = addrRadio then
    if f.type = typeChannels then .frameChannelsIn f.payload now
    else if f.type = typeBattery then .frameBattery f.payload now
    else if f.type = typeGps then .frameGps f.payload now
    else if f.type = typeVario then .frameVario f.payload now
    else if f.type = typeBaro then .frameBaro f.payload now
    else if f.type = typeAttitude then .frameAttitude f.payload now
    else if f.type = typeLinkStats then .frameLinkStats f.payload now
    else .frameOtherIn f.deviceAddr f.type f.payload now
  else .frameOtherIn f.deviceAddr f.type f.payload now

/-- The row of an outbound frame: one of the encoder's two images (30_encoding.md R97, R98). -/
def outboundInstr (f : Frame) : Option Instr :=
  if f.deviceAddr = channelsOutAddr ∧ f.type = typeChannels ∧ f.payload.length = channelsPayloadLen then
    some (.frameChannelsOut f.payload)
  else if f.deviceAddr = addrController ∧ f.type = typeCommand then
    match f.payload with
    | [dest, orig, commandId, value] =>
      if dest = addrController ∧ orig = addrRadio then some (.frameCommandOut commandId value) else none
    | _ => none
  else none

/-- The decoder: the instruction at the front of the bytes that come by a port, and what follows it. -/
def decode (port : Port) (bytes : List Byte) (table : CrcTable := crcTable) :
    Except DecodeError (Instr × List Byte) :=
  match port with
  | .operation => decodeOperation bytes
  | .inbound now =>
    match decodeFrame bytes table with
    | .ok (f, rest) => .ok (inboundInstr f now, rest)
    | .error e => .error e
  | .outbound =>
    match decodeFrame bytes table with
    | .ok (f, rest) =>
      match outboundInstr f with
      | some i => .ok (i, rest)
      | none => .error (.notAnEncodedFrame f.deviceAddr f.type)
    | .error e => .error e

/-- The encoder: the bytes of an instruction, from the tables of 30_encoding.md R97, R98, R101 and R80. -/
def encode (i : Instr) (table : CrcTable := crcTable) : List Byte :=
  match i with
  | .reset => [opReset]
  | .rxByte b now => opRxByte :: b :: beBytes32 now
  | .poll now => opPoll :: beBytes32 now
  | .encChannels ch => opEncChannels :: ch.flatMap beBytes16
  | .encCommand commandId value => [opEncCommand, commandId, value]
  | .crc8 data => opCrc8 :: BitVec.ofNat 8 data.length :: data
  | .unpackChannels payload => opUnpackChannels :: payload
  | .reserved07 => [0x07]
  | .reserved08 low => [1#5 ++ low]
  | .reserved10 low => [1#4 ++ low]
  | .reserved20 low => [1#3 ++ low]
  | .reserved40 low => [1#2 ++ low]
  | .reserved80 low => [1#1 ++ low]
  | .frameChannelsOut payload => (channelsFrame payload table).bytes
  | .frameCommandOut commandId value => (commandFrame commandId value table).bytes
  | .frameChannelsIn payload _ => (Frame.build addrRadio typeChannels payload table).bytes
  | .frameBattery payload _ => (Frame.build addrRadio typeBattery payload table).bytes
  | .frameGps payload _ => (Frame.build addrRadio typeGps payload table).bytes
  | .frameVario payload _ => (Frame.build addrRadio typeVario payload table).bytes
  | .frameBaro payload _ => (Frame.build addrRadio typeBaro payload table).bytes
  | .frameAttitude payload _ => (Frame.build addrRadio typeAttitude payload table).bytes
  | .frameLinkStats payload _ => (Frame.build addrRadio typeLinkStats payload table).bytes
  | .frameOtherIn deviceAddr type payload _ => (Frame.build deviceAddr type payload table).bytes

/-- The `k` bytes of a table word, the first byte its least significant eight bits. -/
def bytesOfWord : Nat → Nat → List Byte
  | 0, _ => []
  | k + 1, w => BitVec.ofNat 8 w :: bytesOfWord k (w / 256)

/-- The frame a frame row's word stands for: the table matches a frame row on `(device_addr << 8) | type`, not on its
bytes, so the word gives address and type; the payload is zeros of the row's layout length (one byte for the
catch-all), with the fixed destination and origin of the command frame (log 11). -/
def frameOfKey (key : Nat) : Frame :=
  let deviceAddr : Byte := BitVec.ofNat 8 (key / 256)
  let type : Byte := BitVec.ofNat 8 key
  if deviceAddr = addrController ∧ type = typeCommand then commandFrame 0 0
  else Frame.build deviceAddr type (List.replicate ((layoutLen type).getD 1) 0)

/-- The port a frame row's word comes by: outbound for the encoder's two rows, else inbound at clock reading 0
(log 11). -/
def portOfKey (key : Nat) : Port :=
  if key = 0xEE16 ∨ key = 0xEE2D then .outbound else .inbound 0

/-- Port and bytes of an opcode-table word. A 16-bit word is a frame row's match key; any other is an operation's first
bytes, followed by zeros up to the longest operation, 257 bytes (log 11). -/
def tableItem (nbits w : Nat) : Port × List Byte :=
  if nbits = 16 then (portOfKey w, (frameOfKey w).bytes)
  else (.operation, bytesOfWord (nbits / 8) w ++ List.replicate (257 - nbits / 8) 0)

/-- The instruction the decoder reads from an opcode-table word. -/
def decodeTableWord (nbits w : Nat) : Option Instr :=
  match decode (tableItem nbits w).1 (tableItem nbits w).2 with
  | .ok (i, _) => some i
  | .error _ => none

end Sys2Proof
end

