-- ==== Sys2Proof/Config.lean ====
section
/-! DEFINITION. What an engine instance fixes when it is created (00_scope.md R12, R14), and the free values. An OPEN
parameter of the instance that `exec` and `step` run is a constant with no body: a claim about the engine holds
whatever its value is. `execWith` and `stepWith` (Machine/Instance.lean) take the parameters of any instance. The fixed
and decided parameters of R12 but `CRC_TABLE` stand in Machine/Constants.lean. -/

namespace Sys2Proof

/-- The parameters an instance is created with: the OPEN ones of 00_scope.md R12 and `CRC_TABLE` (40_checksum.md R122,
"A model takes CRC_TABLE as a parameter"). Configuration, not state (10_state.md R30). `reprocCapPred` is one less than
`REPROC_CAP`, so that `REPROC_CAP ≥ 1` holds of every record. DESIGN CHOICE: the spec gives `ATT_SCALE` no type and no
range; here it is any natural number, 0 included (log 10). -/
structure Params where
  reprocCapPred   : Nat
  rxTimeout       : Time
  failsafe        : Time
  crcTable        : CrcTable
  cmdIdPacketRate : Byte
  cmdIdTxPower    : Byte
  cmdIdTlmRatio   : Byte
  attScale        : Nat
  deriving DecidableEq, Repr

/-- `REPROC_CAP`, the reassembler's actions per evaluation, an integer at least 1 (42_reassembler.md R153, R159;
D8). -/
def Params.reprocCap (p : Params) : Nat := p.reprocCapPred + 1

/-- `REPROC_CAP` less one: OPEN (00_scope.md R12; D8). -/
opaque Config.reprocCapPred : Nat

/-- `RX_TIMEOUT` in milliseconds: OPEN (00_scope.md R12; D9). -/
opaque Config.rxTimeout : Time

/-- `FAILSAFE` in milliseconds: OPEN (00_scope.md R12; D10). -/
opaque Config.failsafe : Time

/-- `CMD_ID_PACKET_RATE`: OPEN, read by no rule (00_scope.md R12; D5). -/
opaque Config.cmdIdPacketRate : Byte

/-- `CMD_ID_TX_POWER`: OPEN, read by no rule (00_scope.md R12; D5). -/
opaque Config.cmdIdTxPower : Byte

/-- `CMD_ID_TLM_RATIO`: OPEN, read by no rule (00_scope.md R12; D5). -/
opaque Config.cmdIdTlmRatio : Byte

/-- `ATT_SCALE`, attitude units per radian: OPEN, read by the attitude view only (43_dispatcher.md R197; D31). DESIGN
CHOICE: the spec gives it no type and no range; the model makes it a natural number, 0 included, and at 0 the view
answers 0, because Lean's division by 0 does (logs 10, 17). -/
opaque Config.attScale : Nat

/-- The parameters of the instance that `exec` and `step` run, with the default `CRC_TABLE`. -/
def Config.params : Params where
  reprocCapPred   := Config.reprocCapPred
  rxTimeout       := Config.rxTimeout
  failsafe        := Config.failsafe
  crcTable        := Sys2Proof.crcTable
  cmdIdPacketRate := Config.cmdIdPacketRate
  cmdIdTxPower    := Config.cmdIdTxPower
  cmdIdTlmRatio   := Config.cmdIdTlmRatio
  attScale        := Config.attScale

/-- A free value: the byte at the `i`-th place behind the bytes the buffer holds, after the `k`-th time the spec left
those bytes unspecified (10_state.md R33, R35; 93_implementation_defined.md U1, "any value"; log 5). -/
opaque Config.staleByte (k i : Nat) : Byte

end Sys2Proof
end

