-- ==== Sys2Proof/Machine/Buffer.lean ====
section
/-! DEFINITION. The working buffer's storage: 67 bytes, each holding a value (10_state.md R33, R35). The bytes the spec
leaves unspecified hold free values (log 5). -/

namespace Sys2Proof.Machine

/-- `buf`: CAPACITY bytes at offsets 0..66 (10_state.md R33). -/
abbrev Buffer := Vector Byte capacity

/-- The buffer with these bytes from offset 0 on, as far as there is room; the bytes behind them are free values, those
of draw `k` (10_state.md R33, R35). -/
def Buffer.holding (k : Nat) (bytes : List Byte) : Buffer :=
  ⟨((bytes ++ (List.range capacity).map (Config.staleByte k)).take capacity).toArray, by simp⟩

end Sys2Proof.Machine
end

