-- ==== Sys2Proof/Machine/State.lean ====
section
/-! DEFINITION. The state of one engine instance (10_state.md R30 to R50), the model's own fields beside it, and the
ways a step can stop. -/

namespace Sys2Proof.Machine

/-- The battery record (10_state.md R40). -/
structure Battery where
  voltage   : Half
  current   : Half
  capacity  : Word24
  remaining : Byte
  deriving DecidableEq, Repr

/-- The GPS record (10_state.md R41). -/
structure Gps where
  latitude    : Word32
  longitude   : Word32
  groundspeed : Half
  heading     : Half
  altitude    : Half
  satellites  : Byte
  deriving DecidableEq, Repr

/-- The vario record (10_state.md R42). -/
structure Vario where
  verticalSpeed : Half
  deriving DecidableEq, Repr

/-- The barometric-altitude record (10_state.md R43). -/
structure Baro where
  altitude      : Half
  verticalSpeed : Half
  deriving DecidableEq, Repr

/-- The attitude record (10_state.md R44). -/
structure Attitude where
  pitch : Half
  roll  : Half
  yaw   : Half
  deriving DecidableEq, Repr

/-- The link-statistics record (10_state.md R45). -/
structure LinkStats where
  uplinkRssi1         : Byte
  uplinkRssi2         : Byte
  uplinkLinkQuality   : Byte
  uplinkSnr           : Byte
  activeAntenna       : Byte
  rfMode              : Byte
  uplinkTxPower       : Byte
  downlinkRssi        : Byte
  downlinkLinkQuality : Byte
  downlinkSnr         : Byte
  deriving DecidableEq, Repr

/-- What a trace records: the labels of 60_exceptions.md R231, each with the value that rule lists, and the two marks
of 95_test_vectors.md ("event", "flush-discard"). Model-only: no rule reads one (log 4). -/
inductive TraceEntry where
  /-- E_LEN: the discarded byte and `buf[1]`. -/
  | eLen (discarded size : Byte)
  /-- E_CRC: the discarded byte, computed and received checksum. -/
  | eCrc (discarded computed received : Byte)
  /-- E_OVF: the lost bytes. -/
  | eOvf (lost : List Byte)
  /-- E_TYPE: the type byte. -/
  | eType (type : Byte)
  /-- E_TMO: the flushed bytes. -/
  | eTmo (flushed : List Byte)
  /-- E_ADDR: `device_addr`. -/
  | eAddr (deviceAddr : Byte)
  /-- E_SHORT: type and payload length. -/
  | eShort (type : Byte) (plen : Nat)
  /-- E_CAP: `cursor`. -/
  | eCap (cursor : Nat)
  /-- An `emit FrameEvent`. -/
  | event
  /-- The one-byte discard of the receive-timeout flush. -/
  | flushDiscard
  deriving DecidableEq, Repr

/-- What an operation returned to its caller (00_scope.md R20; 30_encoding.md R100, column "result"; log 3). -/
inductive OpResult where
  | nothing
  | byte (b : Byte)
  | frame (bytes : List Byte)
  | channels (ch : List Half)
  deriving DecidableEq, Repr

/-- The engine's state. The first twelve fields are the record of 10_state.md R30; the last five are the model's own
(logs 1 to 5), and no rule of the engine reads them; `draws` only names the next free values. -/
structure State where
  /-- R33. -/
  buf : Buffer
  /-- R34. -/
  cursor : Nat
  /-- R36. -/
  lastReceiveTime : Time
  /-- R37. -/
  lastChannelsFrameTime : Time
  /-- R38. -/
  linkIsUp : Bool
  /-- R40. -/
  battery : Battery
  /-- R41. -/
  gps : Gps
  /-- R42. -/
  vario : Vario
  /-- R43. -/
  baro : Baro
  /-- R44. -/
  attitude : Attitude
  /-- R45. -/
  linkStats : LinkStats
  /-- R46: the frames found, oldest first. -/
  events : List Frame
  /-- The model's own: the trace, oldest first (log 4). -/
  trace : List TraceEntry
  /-- The model's own: what the last operation returned (log 3). -/
  result : OpResult
  /-- The model's own: the bytes of the instructions the host has still to invoke (log 1). -/
  stream : List Byte
  /-- The model's own: which decoder reads the front of `stream` (log 2). -/
  port : Port
  /-- The model's own: how often the spec has left buffer bytes unspecified, so that each time they are new free values
  (log 5). -/
  draws : Nat
  deriving DecidableEq, Repr

/-- The machine stops. The engine itself raises no fault (60_exceptions.md R230); this one is the model's, and it is
safe: it arises only in states that no run from reset reaches. -/
inductive Fault where
  /-- Raised by RX_BYTE with `cursor` at or above CAPACITY, against the precondition of 42_reassembler.md R150. Safe
  (log 6). -/
  | bufferOverrun
  deriving DecidableEq, Repr

/-- The model gives no step (60_exceptions.md R243). -/
inductive Refusal where
  /-- Raised by an arm of `exec` whose instruction has no meaning yet. Safe. -/
  | notModelled (mnemonic : String)
  /-- Raised by the six RESERVED rows (60_exceptions.md R243 (a)). Safe. -/
  | reservedOpcode (opcode : Byte)
  /-- Raised by `step` where the bytes that come next spell no instruction (60_exceptions.md R243 (c); logs 12, 14).
  Safe. -/
  | undecodable (e : DecodeError)
  deriving DecidableEq, Repr

/-- The state RESET gives and an instance starts in (70_reset_and_hazards.md R250, R251). The zeros are the spec's
decision D16 (log 7); every buffer byte is a free value (R252; log 5). -/
def State.reset : State where
  buf                   := Buffer.holding 0 []
  cursor                := 0
  lastReceiveTime       := 0
  lastChannelsFrameTime := 0
  linkIsUp              := false
  battery               := ⟨0, 0, 0, 0⟩
  gps                   := ⟨0, 0, 0, 0, 0, 0⟩
  vario                 := ⟨0⟩
  baro                  := ⟨0, 0⟩
  attitude              := ⟨0, 0, 0⟩
  linkStats             := ⟨0, 0, 0, 0, 0, 0, 0, 0, 0, 0⟩
  events                := []
  trace                 := []
  result                := .nothing
  stream                := []
  port                  := .operation
  draws                 := 1

end Sys2Proof.Machine
end

