-- ==== Sys2Proof/Machine/Ops.lean ====
section
/-! DEFINITION. The named operations over the state that the units share: buffer reads, Append, Shift, emit, the trace
and the result (00_scope.md R20; 42_reassembler.md R150, R151). There is no operation that takes or returns from an
exception, because the engine has none (60_exceptions.md R234, R235). -/

namespace Sys2Proof.Machine

/-- `BufRead(i)` (00_scope.md R20). -/
def bufRead (i : Nat) (s : State) (h : i < capacity := by decide) : Byte := s.buf[i]

/-- `BufRead(i), ..., BufRead(i + n - 1)` (00_scope.md R16, R20). -/
def bufRange (i n : Nat) (s : State) : List Byte := (s.buf.toList.drop i).take n

/-- The bytes the buffer holds, `buf[0..cursor-1]` (10_state.md R34). -/
def State.held (s : State) : List Byte := s.buf.toList.take s.cursor

/-- Append: record the arrival time, write the byte at `cursor`, count it. Its precondition is `cursor < CAPACITY`
(42_reassembler.md R150); against it the model faults (log 6). -/
def append (b : Byte) (now : Time) (s : State) : Except Fault State :=
  if h : s.cursor < capacity then
    .ok { s with lastReceiveTime := now, buf := s.buf.set s.cursor b, cursor := s.cursor + 1 }
  else .error .bufferOverrun

/-- Shift(n): drop the first `n` bytes (42_reassembler.md R151: "Only the resulting byte sequence `buf[0..cursor-1]` is
normative, not the move"). The bytes behind are unspecified again (10_state.md R35; log 5). -/
def shift (n : Nat) (s : State) : State :=
  { s with buf := Buffer.holding s.draws (s.held.drop n), cursor := s.cursor - n, draws := s.draws + 1 }

/-- Every buffered byte is lost; `buf` itself is not written (42_reassembler.md R155). -/
def clearBuffer (s : State) : State := { s with cursor := 0 }

/-- Record a trace entry (60_exceptions.md R231; log 4). -/
def record (e : TraceEntry) (s : State) : State := { s with trace := s.trace ++ [e] }

/-- `emit FrameEvent(f)` (00_scope.md R20; 10_state.md R46). -/
def emit (f : Frame) (s : State) : State :=
  { s with events := s.events ++ [f], trace := s.trace ++ [.event] }

/-- `return v` (00_scope.md R20; log 3). -/
def giveResult (r : OpResult) (s : State) : State := { s with result := r }

/-- The outcome of a run that has a next state or faults. -/
def ofRun : Except Fault State → Host.Outcome State Fault Refusal
  | .ok s => .next s
  | .error e => .fault e

end Sys2Proof.Machine
end

