-- ==== Sys2Proof/Machine/Control.lean ====
section
/-! DEFINITION. RESET and the reserved opcodes (70_reset_and_hazards.md R250; 30_encoding.md R102). -/

namespace Sys2Proof.Machine

/-- RESET: every element of 10_state.md R30 at its reset value, in any state the same; the buffer bytes are unspecified,
so new free values (70_reset_and_hazards.md R250, R252; log 5). What the host has still to invoke is not the engine's
and stays (log 16). -/
def execReset (s : State) : Host.Outcome State Fault Refusal :=
  .next { State.reset with
    buf := Buffer.holding s.draws [], draws := s.draws + 1, stream := s.stream, port := s.port }

/-- A reserved opcode spells no operation: no step (30_encoding.md R102; 60_exceptions.md R243 (a)). -/
def refuseReserved (opcode : Byte) (_ : State) : Host.Outcome State Fault Refusal :=
  .refused (.reservedOpcode opcode)

/-- RESERVED 0x07. -/
def execReserved07 (s : State) : Host.Outcome State Fault Refusal := refuseReserved 0x07 s

/-- RESERVED 0x08..0x0F. -/
def execReserved08 (low : BitVec 3) (s : State) : Host.Outcome State Fault Refusal := refuseReserved (1#5 ++ low) s

/-- RESERVED 0x10..0x1F. -/
def execReserved10 (low : BitVec 4) (s : State) : Host.Outcome State Fault Refusal := refuseReserved (1#4 ++ low) s

/-- RESERVED 0x20..0x3F. -/
def execReserved20 (low : BitVec 5) (s : State) : Host.Outcome State Fault Refusal := refuseReserved (1#3 ++ low) s

/-- RESERVED 0x40..0x7F. -/
def execReserved40 (low : BitVec 6) (s : State) : Host.Outcome State Fault Refusal := refuseReserved (1#2 ++ low) s

/-- RESERVED 0x80..0xFF. -/
def execReserved80 (low : BitVec 7) (s : State) : Host.Outcome State Fault Refusal := refuseReserved (1#1 ++ low) s

end Sys2Proof.Machine
end

