-- ==== Sys2Proof/Machine/Packing.lean ====
section
/-! DEFINITION. PACK and its inverse: sixteen 11-bit channel values as a 22-byte little-endian bit stream
(30_encoding.md R89; 41_encoder.md R130; 43_dispatcher.md R198). -/

namespace Sys2Proof

/-- `P <- P | (zext_176(v[i]) << (11 * i))`, i ascending from a given channel (41_encoder.md R130). -/
def packInto (P : BitVec 176) : Nat → List (BitVec 11) → BitVec 176
  | _, [] => P
  | i, v :: vs => packInto (P ||| (zext 176 v <<< (11 * i))) (i + 1) vs

/-- PACK: payload byte j is `P[8j+7 : 8j]`, j = 0..21 (41_encoder.md R130). -/
def pack (v : List (BitVec 11)) : List Byte :=
  (List.range 22).map fun j => (packInto 0 0 v).extractLsb' (8 * j) 8

/-- `P <- Σ zext_176(payload[j]) << (8 * j)`, j ascending from a given byte (43_dispatcher.md R198). -/
def unpackFrom (P : BitVec 176) : Nat → List Byte → BitVec 176
  | _, [] => P
  | j, b :: bs => unpackFrom (P + (zext 176 b <<< (8 * j))) (j + 1) bs

/-- The unpack routine: `ch[i] <- zext_16(P[11i+10 : 11i])`, i = 0..15 (43_dispatcher.md R198). -/
def unpack (payload : List Byte) : List Half :=
  (List.range 16).map fun i => zext 16 ((unpackFrom 0 0 payload).extractLsb' (11 * i) 11)

end Sys2Proof
end

