-- ==== Sys2Proof/Machine/Encoder.lean ====
section
/-! DEFINITION. The Frame Encoder, UNPACK_CHANNELS and CRC8: the operations that write no engine state and return a
value (40_checksum.md R120; 41_encoder.md R130 to R134; 43_dispatcher.md R198), with the two outbound frame rows. What
has a checksum takes the instance's parameters; the meaning that `exec` calls gives it Config.params. -/

namespace Sys2Proof.Machine

/-- Hand a value to the caller; nothing else changes. -/
def answer (r : OpResult) (s : State) : Host.Outcome State Fault Refusal := .next (giveResult r s)

/-- ENC_CHANNELS in an instance with these parameters: mask, pack, frame (41_encoder.md R132). -/
def execEncChannelsWith (p : Params) (ch : List Half) (s : State) : Host.Outcome State Fault Refusal :=
  answer (.frame (channelsFrame (pack (ch.map maskChannel)) p.crcTable).bytes) s

/-- ENC_CHANNELS (41_encoder.md R132). -/
def execEncChannels (ch : List Half) (s : State) : Host.Outcome State Fault Refusal :=
  execEncChannelsWith Config.params ch s

/-- ENC_COMMAND in an instance with these parameters (41_encoder.md R133). -/
def execEncCommandWith (p : Params) (commandId value : Byte) (s : State) : Host.Outcome State Fault Refusal :=
  answer (.frame (commandFrame commandId value p.crcTable).bytes) s

/-- ENC_COMMAND (41_encoder.md R133). -/
def execEncCommand (commandId value : Byte) (s : State) : Host.Outcome State Fault Refusal :=
  execEncCommandWith Config.params commandId value s

/-- FRAME_CHANNELS_OUT in an instance with these parameters: the encoder hands over the channels frame of a packed
payload (30_encoding.md R97; log 2). -/
def execFrameChannelsOutWith (p : Params) (payload : List Byte) (s : State) : Host.Outcome State Fault Refusal :=
  answer (.frame (channelsFrame payload p.crcTable).bytes) s

/-- FRAME_CHANNELS_OUT (30_encoding.md R97; log 2). -/
def execFrameChannelsOut (payload : List Byte) (s : State) : Host.Outcome State Fault Refusal :=
  execFrameChannelsOutWith Config.params payload s

/-- FRAME_COMMAND_OUT in an instance with these parameters: the encoder hands over the command frame (30_encoding.md
R98; log 2). -/
def execFrameCommandOutWith (p : Params) (commandId value : Byte) (s : State) : Host.Outcome State Fault Refusal :=
  answer (.frame (commandFrame commandId value p.crcTable).bytes) s

/-- FRAME_COMMAND_OUT (30_encoding.md R98; log 2). -/
def execFrameCommandOut (commandId value : Byte) (s : State) : Host.Outcome State Fault Refusal :=
  execFrameCommandOutWith Config.params commandId value s

/-- CRC8 in an instance with these parameters (40_checksum.md R120). -/
def execCrc8With (p : Params) (data : List Byte) (s : State) : Host.Outcome State Fault Refusal :=
  answer (.byte (crc8 data p.crcTable)) s

/-- CRC8 (40_checksum.md R120). -/
def execCrc8 (data : List Byte) (s : State) : Host.Outcome State Fault Refusal :=
  execCrc8With Config.params data s

/-- UNPACK_CHANNELS (43_dispatcher.md R198). -/
def execUnpackChannels (payload : List Byte) (s : State) : Host.Outcome State Fault Refusal :=
  answer (.channels (unpack payload)) s

end Sys2Proof.Machine
end

