-- ==== Sys2Proof/Machine/Flags.lean ====
section
/-! DEFINITION. `link_is_up`, the engine's only status flag, and the modular time its test uses (10_state.md R38;
43_dispatcher.md R187; 44_link_state.md R220 to R223). -/

namespace Sys2Proof.Machine

/-- `elapsed(now, t) = (now - t) mod 2^32` (00_scope.md R21; 44_link_state.md R223). -/
def elapsed (now t : Time) : Time := now - t

/-- `elapsed(now, t) > threshold`: strict (D11). -/
def expired (now t threshold : Time) : Bool := threshold.toNat < (elapsed now t).toNat

/-- ChannelsSeen(now): the only way up (43_dispatcher.md R187). -/
def channelsSeen (now : Time) (s : State) : State :=
  { s with lastChannelsFrameTime := now, linkIsUp := true }

/-- FailsafeCheck(now): the only way down but RESET (44_link_state.md R221). -/
def failsafeCheck (p : Params) (now : Time) (s : State) : State :=
  if s.linkIsUp ∧ expired now s.lastChannelsFrameTime p.failsafe then { s with linkIsUp := false } else s

end Sys2Proof.Machine
end

