-- ==== Sys2Proof/Machine/Dispatcher.lean ====
section
/-! DEFINITION. The Frame Dispatcher & Decoders, and the meanings of the inbound frame rows (43_dispatcher.md R180 to
R196). A frame row's checksum is computed with the instance's table, so its meaning takes the parameters; the meaning that
`exec` calls gives it Config.params. -/

namespace Sys2Proof.Machine

/-- The battery record of a payload (43_dispatcher.md R189); none where the payload is shorter than the layout. -/
def batteryOf (p : List Byte) : Option Battery := do
  let voltage ← be16 p 0
  let current ← be16 p 2
  let capacity ← be24 p 4
  let remaining ← be8 p 7
  return { voltage, current, capacity, remaining }

/-- The GPS record of a payload (43_dispatcher.md R190). -/
def gpsOf (p : List Byte) : Option Gps := do
  let latitude ← be32 p 0
  let longitude ← be32 p 4
  let groundspeed ← be16 p 8
  let heading ← be16 p 10
  let altitude ← be16 p 12
  let satellites ← be8 p 14
  return { latitude, longitude, groundspeed, heading, altitude, satellites }

/-- The vario record of a payload (43_dispatcher.md R191). -/
def varioOf (p : List Byte) : Option Vario := do
  let verticalSpeed ← be16 p 0
  return { verticalSpeed }

/-- The barometric-altitude record of a payload (43_dispatcher.md R192). -/
def baroOf (p : List Byte) : Option Baro := do
  let altitude ← be16 p 0
  let verticalSpeed ← be16 p 2
  return { altitude, verticalSpeed }

/-- The attitude record of a payload (43_dispatcher.md R193). -/
def attitudeOf (p : List Byte) : Option Attitude := do
  let pitch ← be16 p 0
  let roll ← be16 p 2
  let yaw ← be16 p 4
  return { pitch, roll, yaw }

/-- The link-statistics record of a payload (43_dispatcher.md R194). -/
def linkStatsOf (p : List Byte) : Option LinkStats := do
  let uplinkRssi1 ← be8 p 0
  let uplinkRssi2 ← be8 p 1
  let uplinkLinkQuality ← be8 p 2
  let uplinkSnr ← be8 p 3
  let activeAntenna ← be8 p 4
  let rfMode ← be8 p 5
  let uplinkTxPower ← be8 p 6
  let downlinkRssi ← be8 p 7
  let downlinkLinkQuality ← be8 p 8
  let downlinkSnr ← be8 p 9
  return { uplinkRssi1, uplinkRssi2, uplinkLinkQuality, uplinkSnr, activeAntenna, rfMode, uplinkTxPower,
           downlinkRssi, downlinkLinkQuality, downlinkSnr }

/-- DecodeBattery(p): the whole record is written or, for a payload too short, nothing (43_dispatcher.md R183,
R189). -/
def decodeBattery (p : List Byte) (s : State) : State :=
  match batteryOf p with
  | some r => { s with battery := r }
  | none => s

/-- DecodeGps(p) (43_dispatcher.md R183, R190). -/
def decodeGps (p : List Byte) (s : State) : State :=
  match gpsOf p with
  | some r => { s with gps := r }
  | none => s

/-- DecodeVario(p) (43_dispatcher.md R183, R191). -/
def decodeVario (p : List Byte) (s : State) : State :=
  match varioOf p with
  | some r => { s with vario := r }
  | none => s

/-- DecodeBaro(p) (43_dispatcher.md R183, R192). -/
def decodeBaro (p : List Byte) (s : State) : State :=
  match baroOf p with
  | some r => { s with baro := r }
  | none => s

/-- DecodeAttitude(p) (43_dispatcher.md R183, R193). -/
def decodeAttitude (p : List Byte) (s : State) : State :=
  match attitudeOf p with
  | some r => { s with attitude := r }
  | none => s

/-- DecodeLinkStats(p) (43_dispatcher.md R183, R194). -/
def decodeLinkStats (p : List Byte) (s : State) : State :=
  match linkStatsOf p with
  | some r => { s with linkStats := r }
  | none => s

/-- `case type:` of Dispatch (43_dispatcher.md R180). -/
def runDecoder (type : Byte) (p : List Byte) (now : Time) (s : State) : State :=
  if type = typeChannels then channelsSeen now s
  else if type = typeBattery then decodeBattery p s
  else if type = typeGps then decodeGps p s
  else if type = typeVario then decodeVario p s
  else if type = typeBaro then decodeBaro p s
  else if type = typeAttitude then decodeAttitude p s
  else if type = typeLinkStats then decodeLinkStats p s
  else s

/-- Dispatch(f, now): address filter, then type, then payload length, then the decoder (43_dispatcher.md R180 to R182,
R195; 60_exceptions.md R232). -/
def dispatch (f : Frame) (now : Time) (s : State) : State :=
  if f.deviceAddr ∈ acceptAddrs then
    match layoutLen f.type with
    | none => record (.eType f.type) s
    | some n =>
      if f.payload.length < n then record (.eShort f.type f.payload.length) s
      else runDecoder f.type f.payload now s
  else record (.eAddr f.deviceAddr) s

/-- What the reassembler does with a valid frame: emit its event, then dispatch it (42_reassembler.md R152). -/
def frameFound (f : Frame) (now : Time) (s : State) : State := dispatch f now (emit f s)

/-- An inbound frame row: the frame is handed over as the reassembler hands one over, and nothing is returned
(43_dispatcher.md R180; log 2). -/
def runInbound (f : Frame) (now : Time) (s : State) : Host.Outcome State Fault Refusal :=
  .next (giveResult .nothing (frameFound f now s))

/-- FRAME_CHANNELS_IN (43_dispatcher.md R187), in an instance with these parameters. -/
def execFrameChannelsInWith (p : Params) (payload : List Byte) (now : Time) (s : State) :
    Host.Outcome State Fault Refusal :=
  runInbound (Frame.build addrRadio typeChannels payload p.crcTable) now s

/-- FRAME_CHANNELS_IN (43_dispatcher.md R187). -/
def execFrameChannelsIn (payload : List Byte) (now : Time) (s : State) : Host.Outcome State Fault Refusal :=
  execFrameChannelsInWith Config.params payload now s

/-- FRAME_BATTERY (43_dispatcher.md R189), in an instance with these parameters. -/
def execFrameBatteryWith (p : Params) (payload : List Byte) (now : Time) (s : State) :
    Host.Outcome State Fault Refusal :=
  runInbound (Frame.build addrRadio typeBattery payload p.crcTable) now s

/-- FRAME_BATTERY (43_dispatcher.md R189). -/
def execFrameBattery (payload : List Byte) (now : Time) (s : State) : Host.Outcome State Fault Refusal :=
  execFrameBatteryWith Config.params payload now s

/-- FRAME_GPS (43_dispatcher.md R190), in an instance with these parameters. -/
def execFrameGpsWith (p : Params) (payload : List Byte) (now : Time) (s : State) :
    Host.Outcome State Fault Refusal :=
  runInbound (Frame.build addrRadio typeGps payload p.crcTable) now s

/-- FRAME_GPS (43_dispatcher.md R190). -/
def execFrameGps (payload : List Byte) (now : Time) (s : State) : Host.Outcome State Fault Refusal :=
  execFrameGpsWith Config.params payload now s

/-- FRAME_VARIO (43_dispatcher.md R191), in an instance with these parameters. -/
def execFrameVarioWith (p : Params) (payload : List Byte) (now : Time) (s : State) :
    Host.Outcome State Fault Refusal :=
  runInbound (Frame.build addrRadio typeVario payload p.crcTable) now s

/-- FRAME_VARIO (43_dispatcher.md R191). -/
def execFrameVario (payload : List Byte) (now : Time) (s : State) : Host.Outcome State Fault Refusal :=
  execFrameVarioWith Config.params payload now s

/-- FRAME_BARO (43_dispatcher.md R192), in an instance with these parameters. -/
def execFrameBaroWith (p : Params) (payload : List Byte) (now : Time) (s : State) :
    Host.Outcome State Fault Refusal :=
  runInbound (Frame.build addrRadio typeBaro payload p.crcTable) now s

/-- FRAME_BARO (43_dispatcher.md R192). -/
def execFrameBaro (payload : List Byte) (now : Time) (s : State) : Host.Outcome State Fault Refusal :=
  execFrameBaroWith Config.params payload now s

/-- FRAME_ATTITUDE (43_dispatcher.md R193), in an instance with these parameters. -/
def execFrameAttitudeWith (p : Params) (payload : List Byte) (now : Time) (s : State) :
    Host.Outcome State Fault Refusal :=
  runInbound (Frame.build addrRadio typeAttitude payload p.crcTable) now s

/-- FRAME_ATTITUDE (43_dispatcher.md R193). -/
def execFrameAttitude (payload : List Byte) (now : Time) (s : State) : Host.Outcome State Fault Refusal :=
  execFrameAttitudeWith Config.params payload now s

/-- FRAME_LINK_STATS (43_dispatcher.md R194), in an instance with these parameters. -/
def execFrameLinkStatsWith (p : Params) (payload : List Byte) (now : Time) (s : State) :
    Host.Outcome State Fault Refusal :=
  runInbound (Frame.build addrRadio typeLinkStats payload p.crcTable) now s

/-- FRAME_LINK_STATS (43_dispatcher.md R194). -/
def execFrameLinkStats (payload : List Byte) (now : Time) (s : State) : Host.Outcome State Fault Refusal :=
  execFrameLinkStatsWith Config.params payload now s

/-- FRAME_OTHER_IN (43_dispatcher.md R181, R195), in an instance with these parameters. -/
def execFrameOtherInWith (p : Params) (deviceAddr type : Byte) (payload : List Byte) (now : Time) (s : State) :
    Host.Outcome State Fault Refusal :=
  runInbound (Frame.build deviceAddr type payload p.crcTable) now s

/-- FRAME_OTHER_IN (43_dispatcher.md R181, R195). -/
def execFrameOtherIn (deviceAddr type : Byte) (payload : List Byte) (now : Time) (s : State) : Host.Outcome State Fault Refusal :=
  execFrameOtherInWith Config.params deviceAddr type payload now s

end Sys2Proof.Machine
end

