-- ==== Sys2Proof/Machine/Reassembler.lean ====
section
/-! DEFINITION. The Stream Reassembler and RX_BYTE (42_reassembler.md R150 to R157). What reads a parameter takes the
instance's parameters as an argument (00_scope.md R14); the meaning that `exec` calls gives it Config.params. -/

namespace Sys2Proof.Machine

/-- What an evaluation finds at the front of a buffer of at least two bytes (42_reassembler.md R152; the order of the
tests is 60_exceptions.md R232). -/
inductive Front where
  | badLength (first size : Byte)
  | incomplete
  | badChecksum (first computed received : Byte)
  | frame (f : Frame)
  deriving DecidableEq, Repr

/-- A legal size byte keeps every read of its frame inside the buffer (00_scope.md R13). -/
theorem lt_capacity_of_sizeOk {size : Byte} (h : sizeOk size = true) : size.toNat + 1 < capacity := by
  have h64 : size.toNat ≤ 64 := of_decide_eq_true (Bool.and_eq_true_iff.1 h).2
  have h67 : capacity = 67 := rfl
  omega

/-- The complete candidate at the front, read field by field (20_memory.md R72). -/
def frontFrame (first size : Byte) (h : sizeOk size = true) (s : State) : Frame where
  deviceAddr := first
  frameSize  := size
  type       := bufRead 2 s
  payload    := bufRange 3 (size.toNat - 2) s
  crc        := bufRead (size.toNat + 1) s (lt_capacity_of_sizeOk h)

/-- CheckFrame on the complete candidate (42_reassembler.md R154). -/
def checkFrame (p : Params) (f : Frame) : Front :=
  if crc8 f.body p.crcTable = f.crc then .frame f
  else .badChecksum f.deviceAddr (crc8 f.body p.crcTable) f.crc

/-- The tests of one pass of Evaluate after the cap test, in their order: length, completeness, checksum
(42_reassembler.md R152, R154). -/
def front (p : Params) (s : State) : Front :=
  if h : sizeOk (bufRead 1 s) = true then
    if s.cursor < (bufRead 1 s).toNat + 2 then .incomplete
    else checkFrame p (frontFrame (bufRead 0 s) (bufRead 1 s) h s)
  else .badLength (bufRead 0 s) (bufRead 1 s)

/-- The action on what was found; none where the evaluation stops to wait for more input (42_reassembler.md R152). -/
def act (now : Time) (s : State) : Front → Option State
  | .badLength first size => some (shift 1 (record (.eLen first size) s))
  | .incomplete => none
  | .badChecksum first computed received => some (shift 1 (record (.eCrc first computed received) s))
  | .frame f => some (shift (f.frameSize.toNat + 2) (frameFound f now s))

/-- Why Evaluate stopped (42_reassembler.md R152). -/
inductive EvalStop where
  | done
  | capped
  deriving DecidableEq, Repr

/-- The loop of Evaluate with its action counter. Each action drops at least one byte, so a bound of `cursor` passes is
never reached with two bytes left (log 19). -/
def evaluateLoop (p : Params) (now : Time) : Nat → Nat → State → EvalStop × State
  | 0, _, s => (.done, s)
  | bound + 1, actions, s =>
    if s.cursor < 2 then (.done, s)
    else if actions = p.reprocCap then (.capped, record (.eCap s.cursor) s)
    else
      match act now s (front p s) with
      | none => (.done, s)
      | some s' => evaluateLoop p now bound (actions + 1) s'

/-- Evaluate(now) (42_reassembler.md R152, R153). -/
def evaluate (p : Params) (now : Time) (s : State) : EvalStop × State :=
  evaluateLoop p now s.cursor 0 s

/-- OverflowCheck() (42_reassembler.md R155). `Params.reprocCap` is at least 1, so after an evaluation entered with
`cursor` at most CAPACITY this changes nothing (R159; `evaluate_lt_capacity` and `overflowCheck_of_lt` of
Laws/Reassembler.lean). -/
def overflowCheck (s : State) : State :=
  if s.cursor = capacity then clearBuffer (record (.eOvf s.held) s) else s

/-- RX_BYTE's body: Append, Evaluate, OverflowCheck (42_reassembler.md R156). -/
def rxByte (p : Params) (b : Byte) (now : Time) (s : State) : Except Fault State :=
  match append b now s with
  | .error e => .error e
  | .ok s1 => .ok (overflowCheck (evaluate p now s1).2)

/-- `while Evaluate(now) = CAPPED: skip`. A capped evaluation drops at least one byte, so a bound of `cursor` passes is
enough (42_reassembler.md R157, R162; log 19). -/
def evaluateAll (p : Params) (now : Time) : Nat → State → State
  | 0, s => s
  | bound + 1, s =>
    match evaluate p now s with
    | (.done, s') => s'
    | (.capped, s') => evaluateAll p now bound s'

/-- `if S.cursor > 0: Shift(1)` of the flush (42_reassembler.md R157). -/
def flushOne (s : State) : State :=
  if s.cursor = 0 then s else shift 1 (record .flushDiscard s)

/-- `while S.cursor > 0` of the flush; each pass drops at least one byte (42_reassembler.md R157, R162; log 19). -/
def flushLoop (p : Params) (now : Time) : Nat → State → State
  | 0, s => s
  | bound + 1, s =>
    if s.cursor = 0 then s else flushLoop p now bound (flushOne (evaluateAll p now s.cursor s))

/-- TimeoutFlush(now) (42_reassembler.md R157). -/
def timeoutFlush (p : Params) (now : Time) (s : State) : State :=
  if 0 < s.cursor ∧ expired now s.lastReceiveTime p.rxTimeout then
    flushLoop p now s.cursor (record (.eTmo s.held) s)
  else s

/-- RX_BYTE in an instance with these parameters; nothing is returned (42_reassembler.md R156). -/
def execRxByteWith (p : Params) (b : Byte) (now : Time) (s : State) : Host.Outcome State Fault Refusal :=
  ofRun (rxByte p b now (giveResult .nothing s))

/-- RX_BYTE (42_reassembler.md R156). -/
def execRxByte (b : Byte) (now : Time) (s : State) : Host.Outcome State Fault Refusal :=
  execRxByteWith Config.params b now s

end Sys2Proof.Machine
end

