-- ==== Sys2Proof/Machine/LinkTracker.lean ====
section
/-! DEFINITION. POLL: the receive-timeout flush, then the fail-safe check (44_link_state.md R221, R222). -/

namespace Sys2Proof.Machine

/-- POLL's body (44_link_state.md R222; the order is the spec's decision D13). -/
def poll (p : Params) (now : Time) (s : State) : State := failsafeCheck p now (timeoutFlush p now s)

/-- POLL in an instance with these parameters; nothing is returned (44_link_state.md R222). -/
def execPollWith (p : Params) (now : Time) (s : State) : Host.Outcome State Fault Refusal :=
  .next (poll p now (giveResult .nothing s))

/-- POLL (44_link_state.md R222). -/
def execPoll (now : Time) (s : State) : Host.Outcome State Fault Refusal := execPollWith Config.params now s

end Sys2Proof.Machine
end

