-- ==== Sys2Proof/Machine/Dispatch.lean ====
section
/-! DEFINITION. One arm per constructor of Instr, each one call of its meaning. -/

namespace Sys2Proof.Machine

def exec (i : Instr) (s : State) : Host.Outcome State Fault Refusal :=
  match i with
  | .reset => Sys2Proof.Machine.execReset s
  | .rxByte b now => Sys2Proof.Machine.execRxByte b now s
  | .poll now => Sys2Proof.Machine.execPoll now s
  | .encChannels ch => Sys2Proof.Machine.execEncChannels ch s
  | .encCommand commandId value => Sys2Proof.Machine.execEncCommand commandId value s
  | .crc8 data => Sys2Proof.Machine.execCrc8 data s
  | .unpackChannels payload => Sys2Proof.Machine.execUnpackChannels payload s
  | .reserved07 => Sys2Proof.Machine.execReserved07 s
  | .reserved08 low => Sys2Proof.Machine.execReserved08 low s
  | .reserved10 low => Sys2Proof.Machine.execReserved10 low s
  | .reserved20 low => Sys2Proof.Machine.execReserved20 low s
  | .reserved40 low => Sys2Proof.Machine.execReserved40 low s
  | .reserved80 low => Sys2Proof.Machine.execReserved80 low s
  | .frameChannelsOut payload => Sys2Proof.Machine.execFrameChannelsOut payload s
  | .frameCommandOut commandId value => Sys2Proof.Machine.execFrameCommandOut commandId value s
  | .frameChannelsIn payload now => Sys2Proof.Machine.execFrameChannelsIn payload now s
  | .frameBattery payload now => Sys2Proof.Machine.execFrameBattery payload now s
  | .frameGps payload now => Sys2Proof.Machine.execFrameGps payload now s
  | .frameVario payload now => Sys2Proof.Machine.execFrameVario payload now s
  | .frameBaro payload now => Sys2Proof.Machine.execFrameBaro payload now s
  | .frameAttitude payload now => Sys2Proof.Machine.execFrameAttitude payload now s
  | .frameLinkStats payload now => Sys2Proof.Machine.execFrameLinkStats payload now s
  | .frameOtherIn deviceAddr type payload now => Sys2Proof.Machine.execFrameOtherIn deviceAddr type payload now s

end Sys2Proof.Machine
end

