-- ==== Sys2Proof/Machine/Fetch.lean ====
section
/-! DEFINITION. Fetching: which instruction comes next, and the state it runs in (00_scope.md R11; 20_memory.md R70;
logs 1, 2). -/

namespace Sys2Proof.Machine

/-- The state in which an instruction runs: its bytes are taken from the stream, and the port is the operation stream's
again. -/
def State.fetched (rest : List Byte) (s : State) : State := { s with stream := rest, port := .operation }

/-- Read the next instruction with an instance's checksum table and run it. With no operation invoked the engine holds
its state (60_exceptions.md R242). -/
def fetchAndRun (table : CrcTable) (run : Instr → State → Host.Outcome State Fault Refusal) (s : State) :
    Host.Outcome State Fault Refusal :=
  if s.stream = [] ∧ s.port = .operation then .next s
  else
    match decode s.port s.stream table with
    | .ok (i, rest) => run i (s.fetched rest)
    | .error e => .refused (.undecodable e)

end Sys2Proof.Machine
end

