-- ==== Sys2Proof/Machine/Step.lean ====
section
/-! DEFINITION. One step: the next instruction of the host's stream runs to completion (00_scope.md R11; 20_memory.md
R70; logs 1, 2). -/

namespace Sys2Proof.Machine

/-- One step of the instance with the parameters of Config (60_exceptions.md R242). -/
def step (s : State) : Host.Outcome State Fault Refusal := fetchAndRun Config.params.crcTable exec s

/-- The instruction of an opcode-table word put at the front of the stream, and its port selected (log 11). -/
def State.withFetchWord (s : State) (nbits w : Nat) : State :=
  match decodeTableWord nbits w with
  | some i => { s with stream := encode i ++ s.stream, port := i.port }
  | none => { s with stream := (tableItem nbits w).2 ++ s.stream, port := (tableItem nbits w).1 }

end Sys2Proof.Machine
end

