-- ==== Sys2Proof/Machine/Instance.lean ====
section
/-! DEFINITION. An engine instance with any parameters: the parameters of 00_scope.md R12 are arguments of its step
(R14, "a model takes the OPEN ones as arguments of its step relation"; 40_checksum.md R122). `exec`, `step` and `core` are
the instance with the parameters of Config. -/

namespace Sys2Proof.Machine

/-- What an instruction does in an instance with these parameters. -/
def execWith (p : Params) (i : Instr) (s : State) : Host.Outcome State Fault Refusal :=
  match i with
  | .reset => execReset s
  | .rxByte b now => execRxByteWith p b now s
  | .poll now => execPollWith p now s
  | .encChannels ch => execEncChannelsWith p ch s
  | .encCommand commandId value => execEncCommandWith p commandId value s
  | .crc8 data => execCrc8With p data s
  | .unpackChannels payload => execUnpackChannels payload s
  | .reserved07 => execReserved07 s
  | .reserved08 low => execReserved08 low s
  | .reserved10 low => execReserved10 low s
  | .reserved20 low => execReserved20 low s
  | .reserved40 low => execReserved40 low s
  | .reserved80 low => execReserved80 low s
  | .frameChannelsOut payload => execFrameChannelsOutWith p payload s
  | .frameCommandOut commandId value => execFrameCommandOutWith p commandId value s
  | .frameChannelsIn payload now => execFrameChannelsInWith p payload now s
  | .frameBattery payload now => execFrameBatteryWith p payload now s
  | .frameGps payload now => execFrameGpsWith p payload now s
  | .frameVario payload now => execFrameVarioWith p payload now s
  | .frameBaro payload now => execFrameBaroWith p payload now s
  | .frameAttitude payload now => execFrameAttitudeWith p payload now s
  | .frameLinkStats payload now => execFrameLinkStatsWith p payload now s
  | .frameOtherIn deviceAddr type payload now => execFrameOtherInWith p deviceAddr type payload now s

/-- One step of an instance with these parameters. -/
def stepWith (p : Params) (s : State) : Host.Outcome State Fault Refusal := fetchAndRun p.crcTable (execWith p) s

/-- An instance with these parameters as a machine: two instances are two parameter records with two states, and share
nothing (10_state.md R50). -/
def coreWith (p : Params) : Host.Core where
  State   := State
  Fault   := Fault
  Refusal := Refusal
  step    := stepWith p
  reset   := State.reset

end Sys2Proof.Machine
end

