-- ==== Sys2Proof/Machine/Pseudo.lean ====
section
/-! DEFINITION. The pseudo-operations of 30_encoding.md R104 as the operations they expand to, and a run of operations
in the host's order (20_memory.md R74). -/

namespace Sys2Proof.Machine

/-- `RXS b0, ..., bk @T`: one RX_BYTE for each byte, in order, all at one clock reading (30_encoding.md R104). -/
def rxs (bytes : List Byte) (now : Time) : List Instr := bytes.map fun b => .rxByte b now

/-- `SENDCMD id, value`: the transport write after it is the host's and has no engine effect (30_encoding.md R104). -/
def sendCmd (commandId value : Byte) : List Instr := [.encCommand commandId value]

/-- `SENDCH c0, ..., c15` (30_encoding.md R104). -/
def sendCh (ch : List Half) : List Instr := [.encChannels ch]

/-- Instructions run one after the other; the first that stops ends the run. -/
def runEach (run : Instr → State → Host.Outcome State Fault Refusal) :
    List Instr → State → Host.Outcome State Fault Refusal
  | [], s => .next s
  | i :: is, s =>
    match run i s with
    | .next s' => runEach run is s'
    | .fault e => .fault e
    | .refused r => .refused r

/-- A run of the instance with the parameters of Config. -/
abbrev runAll : List Instr → State → Host.Outcome State Fault Refusal := runEach exec

/-- A run of an instance with these parameters. -/
abbrev runAllWith (p : Params) : List Instr → State → Host.Outcome State Fault Refusal := runEach (execWith p)

end Sys2Proof.Machine
end

