-- ==== Sys2Proof/Safety.lean ====
section
/-! DEFINITION. What a safe state is, in the terms the statements use. -/

namespace Sys2Proof.Machine

/-- The buffer holds exactly this byte sequence, at offsets 0..cursor-1; the bytes behind it are any (10_state.md R33 to
R35). -/
abbrev Holds (s : State) (bytes : List Byte) : Prop := s.cursor = bytes.length ∧ s.held = bytes

/-- The invariant between operations of an instance with this checksum table: `cursor` is at most CAPACITY - 1
(42_reassembler.md R158), and every frame event is a valid frame (42_reassembler.md R160 (c)). -/
abbrev Invariant (s : State) (table : CrcTable := crcTable) : Prop :=
  s.cursor < capacity ∧ ∀ f ∈ s.events, f.valid table = true

/-- Equal in everything a rule of the engine reads: all of 10_state.md R30 but the event output (R46: "not state any
rule reads back") and the stale bytes of `buf` (R35: "no rule reads them"). -/
abbrev SameEngine (s t : State) : Prop :=
  s.held = t.held ∧ s.cursor = t.cursor ∧ s.lastReceiveTime = t.lastReceiveTime ∧
  s.lastChannelsFrameTime = t.lastChannelsFrameTime ∧ s.linkIsUp = t.linkIsUp ∧ s.battery = t.battery ∧
  s.gps = t.gps ∧ s.vario = t.vario ∧ s.baro = t.baro ∧ s.attitude = t.attitude ∧ s.linkStats = t.linkStats

end Sys2Proof.Machine
end

