-- ==== Sys2Proof/Certificates/Slice0/Obligations.lean ====
section
/-! DEFINITION. The statements about the engine. Each docstring names the rule or section of spec/ it formalises; "D<n>"
is a decision of spec/92_eei_decisions.md, "log <n>" a row of notes/assumptions/. `exec` and `step` are the instance with
the parameters of Config, whose OPEN ones are constants without a value, so a statement that names one holds whatever its
value is; `execWith` and `stepWith` are the instance with any parameters. -/

open Sys2Proof Sys2Proof.Machine

/-! ### What the statements say things in

Independent of the model's own helpers: checksums by the generating rule, fields by Nat arithmetic, time by Nat
arithmetic. -/

namespace Sys2Proof.Spec

/-- The checksum by the generating rule of 40_checksum.md R122, without the table. -/
def bitCrc (data : List Byte) : Byte := data.foldl (fun crc b => crcEntry (crc ^^^ b)) 0

/-- The checksum with any table, read at the entry's number (40_checksum.md R120, R121). -/
def tableCrc (table : CrcTable) (data : List Byte) : Byte :=
  data.foldl (fun crc b => table.toList.getD (crc ^^^ b).toNat 0) 0

/-- `elapsed(now, t) = (now - t) mod 2^32` on integers (00_scope.md R21). -/
def elapsedMs (now t : Time) : Nat := (now.toNat + 2 ^ 32 - t.toNat) % 2 ^ 32

/-- `s[o]·2^8 + s[o+1]` (00_scope.md R17). -/
def u16 (b1 b0 : Byte) : Half := BitVec.ofNat 16 (b1.toNat * 2 ^ 8 + b0.toNat)

/-- `s[o]·2^16 + s[o+1]·2^8 + s[o+2]` (00_scope.md R17). -/
def u24 (b2 b1 b0 : Byte) : Word24 := BitVec.ofNat 24 (b2.toNat * 2 ^ 16 + b1.toNat * 2 ^ 8 + b0.toNat)

/-- `s[o]·2^24 + s[o+1]·2^16 + s[o+2]·2^8 + s[o+3]` (00_scope.md R17). -/
def u32 (b3 b2 b1 b0 : Byte) : Word32 :=
  BitVec.ofNat 32 (b3.toNat * 2 ^ 24 + b2.toNat * 2 ^ 16 + b1.toNat * 2 ^ 8 + b0.toNat)

/-- The battery record of a payload's first 8 bytes (43_dispatcher.md R189). -/
def batteryRecord : List Byte → Option Battery
  | v1 :: v0 :: c1 :: c0 :: k2 :: k1 :: k0 :: r :: _ => some ⟨u16 v1 v0, u16 c1 c0, u24 k2 k1 k0, r⟩
  | _ => none

/-- The GPS record of a payload's first 15 bytes (43_dispatcher.md R190). -/
def gpsRecord : List Byte → Option Gps
  | a3 :: a2 :: a1 :: a0 :: o3 :: o2 :: o1 :: o0 :: g1 :: g0 :: h1 :: h0 :: m1 :: m0 :: n :: _ =>
    some ⟨u32 a3 a2 a1 a0, u32 o3 o2 o1 o0, u16 g1 g0, u16 h1 h0, u16 m1 m0, n⟩
  | _ => none

/-- The vario record of a payload's first 2 bytes (43_dispatcher.md R191). -/
def varioRecord : List Byte → Option Vario
  | v1 :: v0 :: _ => some ⟨u16 v1 v0⟩
  | _ => none

/-- The barometric-altitude record of a payload's first 4 bytes (43_dispatcher.md R192). -/
def baroRecord : List Byte → Option Baro
  | a1 :: a0 :: v1 :: v0 :: _ => some ⟨u16 a1 a0, u16 v1 v0⟩
  | _ => none

/-- The attitude record of a payload's first 6 bytes (43_dispatcher.md R193). -/
def attitudeRecord : List Byte → Option Attitude
  | p1 :: p0 :: r1 :: r0 :: y1 :: y0 :: _ => some ⟨u16 p1 p0, u16 r1 r0, u16 y1 y0⟩
  | _ => none

/-- The link-statistics record of a payload's first 10 bytes (43_dispatcher.md R194). -/
def linkStatsRecord : List Byte → Option LinkStats
  | b0 :: b1 :: b2 :: b3 :: b4 :: b5 :: b6 :: b7 :: b8 :: b9 :: _ => some ⟨b0, b1, b2, b3, b4, b5, b6, b7, b8, b9⟩
  | _ => none

/-- A record after a sequence of found frames: each frame of the radio's address and this type whose payload holds the
layout replaces it whole. -/
def recordAfter {R : Type} (type : Byte) (decoded : List Byte → Option R) (found : List Frame) (r : R) : R :=
  found.foldl (fun r f => if f.deviceAddr = 0xEA ∧ f.type = type then (decoded f.payload).getD r else r) r

/-- A channels frame the dispatcher of an instance with this table acts on (43_dispatcher.md R180, R187). -/
def acceptedChannels (table : CrcTable) (f : Frame) : Prop :=
  f.valid table = true ∧ f.deviceAddr = 0xEA ∧ f.type = 0x16 ∧ 22 ≤ f.payload.length

/-- The frame with this address, type and payload, its size and checksum filled in (30_encoding.md R80, R82). -/
def wireFrame (deviceAddr type : Byte) (payload : List Byte) : Frame :=
  ⟨deviceAddr, BitVec.ofNat 8 (payload.length + 2), type, payload, bitCrc (type :: payload)⟩

/-- The state after an inbound frame row that changes nothing but its outputs. -/
def eventOnly (f : Frame) (why : TraceEntry) (s : State) : State :=
  { s with events := s.events ++ [f], trace := s.trace ++ [.event, why], result := .nothing }

/-- Evaluate of 42_reassembler.md R152 on the byte sequence the buffer holds, as a function of its own: the frames
found, in order, and the bytes left. The first number bounds the passes, the second counts the actions done. -/
def scan (cap : Nat) : Nat → Nat → List Byte → List Frame × List Byte
  | 0, _, bytes => ([], bytes)
  | passes + 1, actions, bytes =>
    match bytes with
    | first :: size :: more =>
      if actions = cap then ([], bytes)
      else if size.toNat < 3 ∨ 64 < size.toNat then scan cap passes (actions + 1) (size :: more)
      else if more.length < size.toNat then ([], bytes)
      else
        match more.take (size.toNat - 1), more.drop (size.toNat - 1) with
        | type :: payload, crc :: rest =>
          if bitCrc (type :: payload) = crc then
            let (found, left) := scan cap passes (actions + 1) rest
            (⟨first, size, type, payload, crc⟩ :: found, left)
          else scan cap passes (actions + 1) (size :: more)
        | _, _ => ([], bytes)
    | _ => ([], bytes)

/-- The frames a receive-timeout flush finds in a byte sequence, as a function of its own, without a cap and without
separate evaluations: where a complete valid frame starts it is taken, else one byte is dropped (42_reassembler.md R157;
D14). `check` computes the checksum; the number bounds the passes. -/
def drain (check : List Byte → Byte) : Nat → List Byte → List Frame
  | 0, _ => []
  | passes + 1, bytes =>
    match bytes with
    | first :: size :: more =>
      if 3 ≤ size.toNat ∧ size.toNat ≤ 64 ∧ size.toNat ≤ more.length then
        match more.take (size.toNat - 1), more.drop (size.toNat - 1) with
        | type :: payload, crc :: rest =>
          if check (type :: payload) = crc then ⟨first, size, type, payload, crc⟩ :: drain check passes rest
          else drain check passes (size :: more)
        | _, _ => []
      else drain check passes (size :: more)
    | _ => []

/-- Equal in the records and the link state. -/
def sameRecords (s t : State) : Prop :=
  s.lastChannelsFrameTime = t.lastChannelsFrameTime ∧ s.linkIsUp = t.linkIsUp ∧ s.battery = t.battery ∧
  s.gps = t.gps ∧ s.vario = t.vario ∧ s.baro = t.baro ∧ s.attitude = t.attitude ∧ s.linkStats = t.linkStats

/-- Not one of the six reserved rows. -/
def notReserved : Instr → Prop
  | .reserved07 | .reserved08 _ | .reserved10 _ | .reserved20 _ | .reserved40 _ | .reserved80 _ => False
  | _ => True

end Sys2Proof.Spec

open Sys2Proof.Spec

/-! ### Decoding, encoding and the step -/

/-- No bit of an encoding is dropped: every well-formed instruction, whatever follows it, is read back (30_encoding.md
sections 1, 4, 5; the operation codes are the spec's decision D18, the frame ports the model's, log 2). -/
def Obligations.DecodeOfEncodeIsTheInstruction : Prop :=
  ∀ (i : Instr) (rest : List Byte), i.wellFormed = true → decode i.port (encode i ++ rest) = .ok (i, rest)

/-- Each byte sequence has one reading: what the decoder reads is a well-formed instruction of that port whose encoding
stood at the front (30_encoding.md sections 1, 4, 5; D18, log 2). -/
def Obligations.DecodedInstructionIsWellFormedAndReencodes : Prop :=
  ∀ (port : Port) (bytes : List Byte) (i : Instr) (rest : List Byte), decode port bytes = .ok (i, rest) →
    i.wellFormed = true ∧ i.port = port ∧ encode i ++ rest = bytes

/-- Words written out from 30_encoding.md R101 and R80 and 95_test_vectors.md read as what they stand for (D18). -/
def Obligations.WrittenOutWordsDecode : Prop :=
  decode .operation [0x01, 0xBB, 0x12, 0x34, 0x56, 0x78] = .ok (.rxByte 0xBB 0x12345678, []) ∧
  decode .operation [0x02, 0x00, 0x00, 0x01, 0x2C, 0x00] = .ok (.poll 300, [0x00]) ∧
  decode .operation [0x05, 0x05, 0x2D, 0xEE, 0xEA, 0x01, 0x03] = .ok (.crc8 [0x2D, 0xEE, 0xEA, 0x01, 0x03], []) ∧
  decode (.inbound 5) [0xEA, 0x04, 0x07, 0xFF, 0x9C, 0x31] = .ok (.frameVario [0xFF, 0x9C] 5, []) ∧
  decode .outbound [0xEE, 0x06, 0x2D, 0xEE, 0xEA, 0x01, 0x03, 0x9A] = .ok (.frameCommandOut 0x01 0x03, [])

/-- A step is exec of the instruction the decoder reads at the front of the stream, its bytes taken off and the port
the operation stream's again (the model's convention, logs 1, 2). -/
def Obligations.StepRunsTheDecodedInstruction : Prop :=
  ∀ (s : State) (i : Instr) (rest : List Byte), decode s.port s.stream = .ok (i, rest) →
    step s = exec i { s with stream := rest, port := .operation }

/-- With no operation invoked the engine holds its state (60_exceptions.md section 3, "between operations it holds its
state unchanged, and nothing but a host operation changes it"; D24, log 1). -/
def Obligations.StepWithNothingInvokedHoldsTheState : Prop :=
  ∀ s : State, s.stream = [] → s.port = .operation → step s = .next s

/-- An operation whose operand bytes are not all supplied is refused; for CRC8 this is the declared length that does
not match the data (60_exceptions.md section 4, decisions D17, D18). The other forms are the model's, log 12: the five
other operations with operands, and CRC8 without its length byte. -/
def Obligations.StepRefusesUnsuppliedOperands : Prop :=
  (∀ (s : State) (n : Byte) (data : List Byte), s.port = .operation → s.stream = 0x05 :: n :: data →
    data.length < n.toNat → step s = .refused (.undecodable (.crc8LengthMismatch n.toNat data.length))) ∧
  ∀ (s : State) (opcode : Byte) (need : Nat) (operands : List Byte),
    (opcode, need) ∈ ([(0x01, 5), (0x02, 4), (0x03, 32), (0x04, 2), (0x05, 1), (0x06, 22)] : List (Byte × Nat)) →
    s.port = .operation → s.stream = opcode :: operands → operands.length < need →
    step s = .refused (.undecodable (.truncatedOperation opcode))

/-- The reserved opcode bytes 0x07..0xFF are refused, each of the six rows and from the stream (30_encoding.md section
5, "a model refuses an operation stream that contains one"; 60_exceptions.md section 4; D18). -/
def Obligations.ReservedOpcodesAreRefused : Prop :=
  (∀ s, exec .reserved07 s = .refused (.reservedOpcode 0x07)) ∧
  (∀ low s, exec (.reserved08 low) s = .refused (.reservedOpcode (BitVec.ofNat 8 (0x08 + low.toNat)))) ∧
  (∀ low s, exec (.reserved10 low) s = .refused (.reservedOpcode (BitVec.ofNat 8 (0x10 + low.toNat)))) ∧
  (∀ low s, exec (.reserved20 low) s = .refused (.reservedOpcode (BitVec.ofNat 8 (0x20 + low.toNat)))) ∧
  (∀ low s, exec (.reserved40 low) s = .refused (.reservedOpcode (BitVec.ofNat 8 (0x40 + low.toNat)))) ∧
  (∀ low s, exec (.reserved80 low) s = .refused (.reservedOpcode (BitVec.ofNat 8 (0x80 + low.toNat)))) ∧
  ∀ (s : State) (opcode : Byte) (rest : List Byte), 7 ≤ opcode.toNat → s.port = .operation →
    s.stream = opcode :: rest → step s = .refused (.reservedOpcode opcode)

/-! ### RESET -/

/-- RESET gives every element its reset value whatever the state (70_reset_and_hazards.md section 1; the values but
`link_is_up` are the spec's decision D16), and the buffer bytes any value (D26, log 5). The last five fields are the
model's, logs 1 to 5 and 16. -/
def Obligations.ResetGivesTheResetValues : Prop :=
  ∀ s : State, ∃ buf draws, exec .reset s = .next
    { buf := buf, cursor := 0, lastReceiveTime := 0, lastChannelsFrameTime := 0, linkIsUp := false,
      battery := ⟨0, 0, 0, 0⟩, gps := ⟨0, 0, 0, 0, 0, 0⟩, vario := ⟨0⟩, baro := ⟨0, 0⟩, attitude := ⟨0, 0, 0⟩,
      linkStats := ⟨0, 0, 0, 0, 0, 0, 0, 0, 0, 0⟩, events := [], trace := [], result := .nothing,
      stream := s.stream, port := s.port, draws := draws }

/-! ### Checksum Unit -/

/-- CRC8 answers the checksum of its data by the generating rule, and changes nothing else (40_checksum.md, the
template of R120 and the generating rule under R122; both from general knowledge, D1, D2, log 8). -/
def Obligations.Crc8AnswersThePolynomialChecksum : Prop :=
  ∀ (data : List Byte) (s : State), exec (.crc8 data) s = .next { s with result := .byte (bitCrc data) }

/-- A frame of legal size passes the reassembler's check exactly when the checksum over type, payload and checksum byte
is 0x00 (40_checksum.md, the append property, derived there; D1, D2, log 8). -/
def Obligations.FrameIsValidExactlyWhenResidueIsZero : Prop :=
  ∀ f : Frame, 3 ≤ f.frameSize.toNat → f.frameSize.toNat ≤ 64 → f.payload.length + 2 = f.frameSize.toNat →
    (f.valid = true ↔ crc8 (f.type :: (f.payload ++ [f.crc])) = 0x00)

/-- A single flipped bit anywhere in the covered bytes changes the checksum (40_checksum.md, error detection; the table
is D1, log 8). -/
def Obligations.SingleBitFlipChangesTheChecksum : Prop :=
  ∀ (before after : List Byte) (b : Byte) (k : Nat), k < 8 →
    crc8 (before ++ (b ^^^ (1#8 <<< k)) :: after) ≠ crc8 (before ++ b :: after)

/-! ### Frame Encoder and UNPACK_CHANNELS -/

/-- ENC_CHANNELS answers the 26-byte channels frame whose stream bit 11·i + b is bit b of channel i, and changes
nothing else (30_encoding.md sections 3, 4; 41_encoder.md; bit order D3, address byte D4, checksum log 8). -/
def Obligations.EncChannelsAnswersThePackedFrame : Prop :=
  ∀ (ch : List Half) (s : State), ch.length = 16 →
    ∃ payload : List Byte, payload.length = 22 ∧
      exec (.encChannels ch) s =
        .next { s with result := .frame ([0xEE, 0x18, 0x16] ++ payload ++ [bitCrc (0x16 :: payload)]) } ∧
      ∀ i b, i < 16 → b < 11 →
        (payload.getD ((11 * i + b) / 8) 0).getLsbD ((11 * i + b) % 8) = (ch.getD i 0).getLsbD b

/-- A channel value is a signed integer and is reduced to its low 11 bits, which is the value modulo 2048
(41_encoder.md R131): the frame answered holds, at bit 11·i + b of its payload, bit b of channel i's value modulo 2048,
so -1 packs as 2047 and 2048 as 0. It is no clamp and no error: every list of values gives a next state, the same one as
its values reduced. The payload's bit order is the spec's decision D3 and the address byte 0xEE D4 (log 13); the result
field is log 3. -/
def Obligations.EncChannelsTruncatesEachValueToElevenBits : Prop :=
  (∀ (ch : List Half) (s : State), ch.length = 16 →
    ∃ (payload : List Byte) (crc : Byte), payload.length = 22 ∧
      exec (.encChannels ch) s = .next { s with result := .frame ([0xEE, 0x18, 0x16] ++ payload ++ [crc]) } ∧
      ∀ i b, i < 16 → b < 11 → (payload.getD ((11 * i + b) / 8) 0).getLsbD ((11 * i + b) % 8) =
        ((ch.getD i 0).toInt % 2048).toNat.testBit b) ∧
  ∀ (ch : List Half) (s : State), ∃ t, exec (.encChannels ch) s = .next t ∧
    exec (.encChannels (ch.map fun c => BitVec.ofInt 16 (c.toInt % 2048))) s = .next t

/-- R98: ENC_COMMAND answers exactly the eight bytes, the checksum over offsets 2..6, for every id and value, and
changes nothing else (the result field log 3). -/
def Obligations.EncCommandAnswersTheEightByteFrame : Prop :=
  ∀ (commandId value : Byte) (s : State),
    exec (.encCommand commandId value) s = .next { s with
      result := .frame [0xEE, 0x06, 0x2D, 0xEE, 0xEA, commandId, value, crc8 [0x2D, 0xEE, 0xEA, commandId, value]] }

/-- The two outbound frame rows answer the encoder's frame images (30_encoding.md section 4; D1, D2, D4; that a row
runs by itself is the model's, log 2). -/
def Obligations.OutboundFrameRowsAnswerTheEncodersImages : Prop :=
  (∀ (payload : List Byte) (s : State), payload.length = 22 →
    exec (.frameChannelsOut payload) s =
      .next { s with result := .frame ([0xEE, 0x18, 0x16] ++ payload ++ [bitCrc (0x16 :: payload)]) }) ∧
  ∀ (commandId value : Byte) (s : State),
    exec (.frameCommandOut commandId value) s = .next { s with
      result := .frame [0xEE, 0x06, 0x2D, 0xEE, 0xEA, commandId, value, bitCrc [0x2D, 0xEE, 0xEA, commandId, value]] }

/-- R198: UNPACK_CHANNELS answers sixteen values in 0..2047, bit b of value i being bit 11·i + b of the payload read as
a little-endian integer, and changes nothing else. -/
def Obligations.UnpackChannelsAnswersSixteenElevenBitValues : Prop :=
  ∀ (payload : List Byte) (s : State), payload.length = 22 →
    ∃ ch : List Half, ch.length = 16 ∧ exec (.unpackChannels payload) s = .next { s with result := .channels ch } ∧
      (∀ c ∈ ch, c.toNat < 2048) ∧
      ∀ i b, i < 16 → b < 11 →
        (ch.getD i 0).getLsbD b = (payload.getD ((11 * i + b) / 8) 0).getLsbD ((11 * i + b) % 8)

/-- The round trip through the operations: unpacking an encoded channels frame's payload answers the low 11 bits of
each channel, and encoding unpacked channels answers a frame with the same payload (43_dispatcher.md section 5, the
round trip, derived there). -/
def Obligations.PackAndUnpackAreInverse : Prop :=
  (∀ (ch : List Half) (s : State), ch.length = 16 →
    ∃ bytes, exec (.encChannels ch) s = .next { s with result := .frame bytes } ∧
      exec (.unpackChannels ((bytes.drop 3).take 22)) s =
        .next { s with result := .channels (ch.map fun c => BitVec.ofNat 16 (c.toNat % 2048)) }) ∧
  ∀ (payload : List Byte) (s : State), payload.length = 22 →
    ∃ ch bytes, exec (.unpackChannels payload) s = .next { s with result := .channels ch } ∧
      exec (.encChannels ch) s = .next { s with result := .frame bytes } ∧ (bytes.drop 3).take 22 = payload

/-- A frame either encoder answers, read back byte by byte into an empty buffer, gives exactly one frame event, leaves
the buffer empty, and changes no record and no link state (41_encoder.md, relation to the reassembler, derived there;
70_reset_and_hazards.md section 3, half-duplex echo). -/
def Obligations.EncodedFramesReadBackAreIgnoredEvents : Prop :=
  ∀ (i : Instr) (s t : State) (bytes : List Byte) (now : Time), i.wellFormed = true →
    ((∃ ch, i = .encChannels ch) ∨ ∃ commandId value, i = .encCommand commandId value) →
    exec i s = .next t → t.result = .frame bytes → Holds s [] →
    ∃ u f, runAll (rxs bytes now) t = .next u ∧ u.events = s.events ++ [f] ∧ f.bytes = bytes ∧ Holds u [] ∧
      sameRecords s u

/-! ### The inbound frame rows -/

/-- R189: an accepted battery frame writes all four fields of the record from its payload, and of the
engine's state nothing else but the event output (trace and result are the model's, logs 3, 4). Where the payload is
longer, the record is that of its first bytes (D7). -/
def Obligations.BatteryFrameWritesItsRecord : Prop :=
  ∀ (p : List Byte) (r : Battery) (now : Time) (s : State), batteryRecord p = some r →
    ∃ ev tr res, exec (.frameBattery p now) s =
      .next { s with battery := r, events := ev, trace := tr, result := res }

/-- R190: an accepted GPS frame writes all six fields of the record from its payload, and of the
engine's state nothing else but the event output (trace and result are the model's, logs 3, 4). -/
def Obligations.GpsFrameWritesItsRecord : Prop :=
  ∀ (p : List Byte) (r : Gps) (now : Time) (s : State), gpsRecord p = some r →
    ∃ ev tr res, exec (.frameGps p now) s =
      .next { s with gps := r, events := ev, trace := tr, result := res }

/-- R191: an accepted vario frame writes the record from its payload, and of the
engine's state nothing else but the event output (trace and result are the model's, logs 3, 4). -/
def Obligations.VarioFrameWritesItsRecord : Prop :=
  ∀ (p : List Byte) (r : Vario) (now : Time) (s : State), varioRecord p = some r →
    ∃ ev tr res, exec (.frameVario p now) s =
      .next { s with vario := r, events := ev, trace := tr, result := res }

/-- R192: an accepted barometric-altitude frame writes both fields of the record from its payload, and of the
engine's state nothing else but the event output (trace and result are the model's, logs 3, 4). -/
def Obligations.BaroFrameWritesItsRecord : Prop :=
  ∀ (p : List Byte) (r : Baro) (now : Time) (s : State), baroRecord p = some r →
    ∃ ev tr res, exec (.frameBaro p now) s =
      .next { s with baro := r, events := ev, trace := tr, result := res }

/-- R193: an accepted attitude frame writes all three fields of the record from its payload, and of the
engine's state nothing else but the event output (trace and result are the model's, logs 3, 4). -/
def Obligations.AttitudeFrameWritesItsRecord : Prop :=
  ∀ (p : List Byte) (r : Attitude) (now : Time) (s : State), attitudeRecord p = some r →
    ∃ ev tr res, exec (.frameAttitude p now) s =
      .next { s with attitude := r, events := ev, trace := tr, result := res }

/-- R194: an accepted link-statistics frame writes all ten fields of the record from its payload, and of the
engine's state nothing else but the event output (trace and result are the model's, logs 3, 4). -/
def Obligations.LinkStatsFrameWritesItsRecord : Prop :=
  ∀ (p : List Byte) (r : LinkStats) (now : Time) (s : State), linkStatsRecord p = some r →
    ∃ ev tr res, exec (.frameLinkStats p now) s =
      .next { s with linkStats := r, events := ev, trace := tr, result := res }

/-- Each inbound frame row emits its frame, the one its bytes spell, and nothing before it (10_state.md section 5;
decision D22; the trace log 4). -/
def Obligations.InboundFrameRowsEmitTheirFrame : Prop :=
  ∀ (i : Instr) (now : Time) (s : State), i.wellFormed = true → i.port = .inbound now →
    ∃ t f why, exec i s = .next t ∧ f.bytes = encode i ∧ t.events = s.events ++ [f] ∧
      t.trace = s.trace ++ .event :: why ∧ t.result = .nothing

/-- An accepted channels frame stamps its time and sets the link up, whatever its channel values, and changes nothing
else but its frame event (43_dispatcher.md section 2; decisions D12, D21; trace and result logs 3, 4). -/
def Obligations.ChannelsFrameMarksTheLinkAlive : Prop :=
  ∀ (p : List Byte) (now : Time) (s : State), 22 ≤ p.length → p.length ≤ 62 →
    exec (.frameChannelsIn p now) s = .next { s with
      lastChannelsFrameTime := now, linkIsUp := true,
      events := s.events ++ [wireFrame 0xEA 0x16 p], trace := s.trace ++ [.event], result := .nothing }

/-- A frame of another address or an unrecognized type emits its event and changes no record and no link state
(43_dispatcher.md sections 1, 3; decisions D6, D25; trace and result logs 3, 4). -/
def Obligations.OtherInboundFrameIsOnlyAnEvent : Prop :=
  ∀ (deviceAddr type : Byte) (p : List Byte) (now : Time) (s : State),
    (Instr.frameOtherIn deviceAddr type p now).wellFormed = true →
    exec (.frameOtherIn deviceAddr type p now) s = .next (eventOnly (wireFrame deviceAddr type p)
      (if deviceAddr = 0xEA then .eType type else .eAddr deviceAddr) s)

/-- A frame of a recognized type whose payload is shorter than its layout emits its event and changes nothing else
(43_dispatcher.md section 1; decision D7; trace and result logs 3, 4). -/
def Obligations.ShortPayloadIsOnlyAnEvent : Prop :=
  ∀ (p : List Byte) (now : Time) (s : State), 1 ≤ p.length →
    (p.length < 22 → exec (.frameChannelsIn p now) s =
      .next (eventOnly (wireFrame 0xEA 0x16 p) (.eShort 0x16 p.length) s)) ∧
    (p.length < 8 → exec (.frameBattery p now) s =
      .next (eventOnly (wireFrame 0xEA 0x08 p) (.eShort 0x08 p.length) s)) ∧
    (p.length < 15 → exec (.frameGps p now) s =
      .next (eventOnly (wireFrame 0xEA 0x02 p) (.eShort 0x02 p.length) s)) ∧
    (p.length < 2 → exec (.frameVario p now) s =
      .next (eventOnly (wireFrame 0xEA 0x07 p) (.eShort 0x07 p.length) s)) ∧
    (p.length < 4 → exec (.frameBaro p now) s =
      .next (eventOnly (wireFrame 0xEA 0x09 p) (.eShort 0x09 p.length) s)) ∧
    (p.length < 6 → exec (.frameAttitude p now) s =
      .next (eventOnly (wireFrame 0xEA 0x1E p) (.eShort 0x1E p.length) s)) ∧
    (p.length < 10 → exec (.frameLinkStats p now) s =
      .next (eventOnly (wireFrame 0xEA 0x14 p) (.eShort 0x14 p.length) s))

/-! ### RX_BYTE -/

/-- RX_BYTE completes from every state of the invariant: it records the arrival time, adds at most one byte, never
takes the link down, never changes what the host has still to invoke, and finds at most REPROC_CAP frames
(42_reassembler.md sections 3, 4; D8; the result field log 3). -/
def Obligations.RxByteCompletesAndIsBounded : Prop :=
  ∀ (b : Byte) (now : Time) (s : State), Invariant s →
    ∃ t found, exec (.rxByte b now) s = .next t ∧ t.lastReceiveTime = now ∧ t.cursor ≤ s.cursor + 1 ∧
      t.events = s.events ++ found ∧ found.length ≤ Config.params.reprocCap ∧
      (s.linkIsUp = true → t.linkIsUp = true) ∧ t.result = .nothing ∧ t.stream = s.stream ∧ t.port = s.port

/-- The byte that completes a valid frame dispatches it in the same operation: the state is the one the frame's own row
gives with the buffer empty and the arrival time recorded (42_reassembler.md sections 2, 3; log 2; the bytes left behind
are any, log 5). -/
def Obligations.LastByteOfAFrameRunsItsRow : Prop :=
  ∀ (f : Frame) (now : Time) (s : State), f.valid = true → Holds s f.bytes.dropLast →
    ∃ buf draws, exec (.rxByte f.crc now) s =
      exec (inboundInstr f now) { s with buf := buf, cursor := 0, lastReceiveTime := now, draws := draws }

/-- R84: a size byte of 0, 1, 2 or 65..255 never starts a valid frame and exactly one byte is dropped, as it arrives
behind a single byte and wherever an evaluation meets it, whatever is buffered behind it; no new frame event has such a
size. -/
def Obligations.BadSizeByteDropsExactlyOneByte : Prop :=
  (∀ (first size : Byte) (now : Time) (s : State), size.toNat < 3 ∨ 64 < size.toNat → Holds s [first] →
    ∃ t, exec (.rxByte size now) s = .next t ∧ Holds t [size] ∧ ∃ buf tr res draws, t = { s with
      buf := buf, cursor := 1, lastReceiveTime := now, trace := tr, result := res, draws := draws }) ∧
  (∀ (p : Params) (now : Time) (bound actions : Nat) (first size : Byte) (more : List Byte) (s : State),
    size.toNat < 3 ∨ 64 < size.toNat → Holds s (first :: size :: more) → actions ≠ p.reprocCap →
    ∃ t, evaluateLoop p now (bound + 1) actions s = evaluateLoop p now bound (actions + 1) t ∧
      Holds t (size :: more) ∧ ∃ buf tr draws, t = { s with
        buf := buf, cursor := more.length + 1, trace := tr, draws := draws }) ∧
  ∀ (s t : State) (f : Frame), step s = .next t → f ∈ t.events →
    f ∈ s.events ∨ (3 ≤ f.frameSize.toNat ∧ f.frameSize.toNat ≤ 64)

/-- A byte that leaves the front candidate incomplete is only appended: its prefix is never discarded
(42_reassembler.md sections 2, 4; the result field log 3). -/
def Obligations.IncompleteCandidateWaits : Prop :=
  ∀ (b first size : Byte) (more bytes : List Byte) (now : Time) (s : State), Holds s bytes →
    bytes ++ [b] = first :: size :: more → 3 ≤ size.toNat → size.toNat ≤ 64 → more.length < size.toNat →
    ∃ t, exec (.rxByte b now) s = .next t ∧ Holds t (bytes ++ [b]) ∧ ∃ buf, t = { s with
      buf := buf, cursor := bytes.length + 1, lastReceiveTime := now, result := .nothing }

/-- RX_BYTE is the loop of the spec on the byte sequence the buffer holds: the buffer holds what that loop leaves, the
new frame events are the frames it finds, and the records and the link state are those the frames' own rows give, run
in order (42_reassembler.md sections 2, 3, the pseudocode of Evaluate; cap D8, checksum log 8). -/
def Obligations.RxByteRefinesTheByteSequenceLoop : Prop :=
  ∀ (b : Byte) (now : Time) (s : State) (bytes : List Byte), Holds s bytes → bytes.length < 67 →
    ∃ t u, exec (.rxByte b now) s = .next t ∧
      Holds t (scan Config.params.reprocCap (bytes.length + 1) 0 (bytes ++ [b])).2 ∧
      t.events = s.events ++ (scan Config.params.reprocCap (bytes.length + 1) 0 (bytes ++ [b])).1 ∧
      runAll ((scan Config.params.reprocCap (bytes.length + 1) 0 (bytes ++ [b])).1.map (inboundInstr · now)) s =
        .next u ∧ sameRecords u t

/-- Valid frames fed back to back from an empty buffer are each found, in stream order, once, and leave the buffer
empty, whatever REPROC_CAP is (42_reassembler.md section 4, derived there; W-2, W-4 of 95_test_vectors.md). -/
def Obligations.ValidFramesBackToBackAreEachFoundOnce : Prop :=
  ∀ (frames : List Frame) (now : Time) (s : State), (∀ f ∈ frames, f.valid = true) → Holds s [] →
    ∃ t, runAll (rxs (frames.flatMap Frame.bytes) now) s = .next t ∧ t.events = s.events ++ frames ∧ Holds t []

/-- No frame is ever accepted with a wrong checksum or size: each new frame event of a step is a frame whose size,
payload and checksum agree (42_reassembler.md section 4, derived there; checksum log 8). -/
def Obligations.EveryNewEventIsAValidFrame : Prop :=
  ∀ (s t : State) (f : Frame), step s = .next t → f ∈ t.events →
    f ∈ s.events ∨ f = wireFrame f.deviceAddr f.type f.payload ∧ 1 ≤ f.payload.length ∧ f.payload.length ≤ 62

/-- The overflow reset never fires, because REPROC_CAP is at least 1 (42_reassembler.md section 4, derived there; the
trace is the model's, log 4). -/
def Obligations.OverflowResetNeverFires : Prop :=
  ∀ (b : Byte) (now : Time) (s : State), Invariant s →
    ∃ t new, exec (.rxByte b now) s = .next t ∧ t.trace = s.trace ++ new ∧ ∀ lost, TraceEntry.eOvf lost ∉ new

/-! ### POLL and the link state -/

/-- POLL with no receive timeout changes only the link flag, and that exactly when the link is up and strictly more
than FAILSAFE has elapsed, modulo 2^32, since the last channels frame (44_link_state.md; 42_reassembler.md section 3;
decisions D9 to D11; the result field log 3). -/
def Obligations.PollWithoutReceiveTimeoutOnlyChecksTheFailsafe : Prop :=
  ∀ (now : Time) (s : State),
    (s.cursor = 0 ∨ elapsedMs now s.lastReceiveTime ≤ Config.rxTimeout.toNat) →
    exec (.poll now) s = .next { s with
      result := .nothing, linkIsUp :=
      s.linkIsUp && !decide (Config.failsafe.toNat < elapsedMs now s.lastChannelsFrameTime) }

/-- The parameters are fixed for an instance: `exec` and `step` are the instance with the parameters of Config, and its
`CRC_TABLE` is the default (00_scope.md section 4; D1, D8 to D10). -/
def Obligations.OperationsRunAtTheInstancesParameters : Prop :=
  (∀ (i : Instr) (s : State), exec i s = execWith Config.params i s) ∧
  (∀ s : State, step s = stepWith Config.params s) ∧ Config.params.crcTable = crcTable

/-- POLL after a receive timeout completes and leaves the buffer empty in one call, with the arrival time as it was, in
an instance of any parameters (42_reassembler.md section 3, decisions D9, D14; W-5 of 95_test_vectors.md). -/
def Obligations.PollAfterReceiveTimeoutEmptiesTheBuffer : Prop :=
  ∀ (p : Params) (now : Time) (s : State), Invariant s p.crcTable →
    p.rxTimeout.toNat < elapsedMs now s.lastReceiveTime →
    ∃ t, execWith p (.poll now) s = .next t ∧ Holds t [] ∧ t.lastReceiveTime = s.lastReceiveTime ∧
      s.events <+: t.events ∧ t.result = .nothing ∧ t.stream = s.stream ∧ t.port = s.port

/-- POLL after a receive timeout, in an instance of any parameters: whatever bytes are buffered, the flush finds in them
exactly the frames of the plain drain, in order and whatever REPROC_CAP is, runs each as its own row, leaves the buffer
empty, and the fail-safe is judged on what the frames leave (42_reassembler.md section 3; 44_link_state.md; decisions D9,
D10, D13, D14; V-TO-4 to V-TO-6 of 95_test_vectors.md; that a row runs by itself is log 2). -/
def Obligations.FlushFindsEveryBufferedFrame : Prop :=
  ∀ (p : Params) (now : Time) (s : State) (bytes : List Byte), Holds s bytes →
    p.rxTimeout.toNat < elapsedMs now s.lastReceiveTime →
    ∃ t u, execWith p (.poll now) s = .next t ∧ Holds t [] ∧
      t.events = s.events ++ drain (tableCrc p.crcTable) bytes.length bytes ∧
      runAllWith p ((drain (tableCrc p.crcTable) bytes.length bytes).map (inboundInstr · now)) s = .next u ∧
      sameRecords { u with linkIsUp :=
        u.linkIsUp && !decide (p.failsafe.toNat < elapsedMs now u.lastChannelsFrameTime) } t

/-- POLL repeated with the same clock reading changes nothing more (44_link_state.md, derived there). -/
def Obligations.PollIsIdempotent : Prop :=
  ∀ (now : Time) (s t : State), exec (.poll now) s = .next t → exec (.poll now) t = .next t

/-- The two-state machine of 44_link_state.md R220, in an instance of any parameters: the link starts down; it comes up
only in an operation that finds an accepted channels frame, and after every such operation it is up; it goes down only in
a POLL more than FAILSAFE after the last channels frame (or by RESET, 70_reset_and_hazards.md section 1), and every such
POLL that finds no accepted channels frame takes it down. Which frame is accepted is D6 and D7, that the channels time is
the operation's clock reading D12, the modular elapsed time D10 and D11, and the inbound rows as steps log 2. -/
def Obligations.LinkStateMovesOnlyByChannelsFramesAndFailsafe : Prop :=
  State.reset.linkIsUp = false ∧
  ∀ (p : Params) (i : Instr) (s t : State), i.wellFormed = true → execWith p i s = .next t →
    (s.linkIsUp = false → t.linkIsUp = true →
      ∃ found f, t.events = s.events ++ found ∧ f ∈ found ∧ acceptedChannels p.crcTable f) ∧
    (∀ found f, t.events = s.events ++ found → f ∈ found → acceptedChannels p.crcTable f → t.linkIsUp = true ∧
      ((∃ b, i = .rxByte b t.lastChannelsFrameTime) ∨ i = .poll t.lastChannelsFrameTime ∨
        i.port = .inbound t.lastChannelsFrameTime)) ∧
    (s.linkIsUp = true → t.linkIsUp = false → i = .reset ∨
      ∃ now, i = .poll now ∧ p.failsafe.toNat < elapsedMs now s.lastChannelsFrameTime) ∧
    (∀ now found, i = .poll now → t.events = s.events ++ found → (∀ f ∈ found, ¬ acceptedChannels p.crcTable f) →
      t.linkIsUp = (s.linkIsUp && !decide (p.failsafe.toNat < elapsedMs now s.lastChannelsFrameTime)))

/-- Each timestamp is written only by its own rule: the arrival time by RX_BYTE with its clock reading, the channels
time only where an accepted channels frame is found, with the operation's clock reading; RESET aside
(10_state.md section 3). -/
def Obligations.TimestampsAreWrittenOnlyByTheirRules : Prop :=
  ∀ (i : Instr) (s t : State), i.wellFormed = true → i ≠ .reset → exec i s = .next t →
    (t.lastReceiveTime = s.lastReceiveTime ∨ ∃ b, i = .rxByte b t.lastReceiveTime) ∧
    (t.lastChannelsFrameTime = s.lastChannelsFrameTime ∨
      (∃ found f, t.events = s.events ++ found ∧ f ∈ found ∧ acceptedChannels crcTable f) ∧
      ((∃ b, i = .rxByte b t.lastChannelsFrameTime) ∨ i = .poll t.lastChannelsFrameTime ∨
        i.port = .inbound t.lastChannelsFrameTime))

/-! ### Whole-machine rules -/

/-- Each record is overwritten wholesale by each accepted frame of its type and by nothing else: after any operation
but RESET it is what the operation's new frame events make of it, in order (43_dispatcher.md sections 1, 3;
10_state.md section 4). -/
def Obligations.RecordsAreWrittenWholesaleByTheirFrames : Prop :=
  ∀ (i : Instr) (s t : State), i ≠ .reset → exec i s = .next t →
    ∃ found, t.events = s.events ++ found ∧
      t.battery = recordAfter 0x08 batteryRecord found s.battery ∧
      t.gps = recordAfter 0x02 gpsRecord found s.gps ∧
      t.vario = recordAfter 0x07 varioRecord found s.vario ∧
      t.baro = recordAfter 0x09 baroRecord found s.baro ∧
      t.attitude = recordAfter 0x1E attitudeRecord found s.attitude ∧
      t.linkStats = recordAfter 0x14 linkStatsRecord found s.linkStats

/-- No rule reads back the event output, the trace, the model's own fields or the buffer bytes at or above `cursor`: two
states that differ only there, with `cursor` in its range 0..67, complete the same instructions, with the same engine
state, the same result and the same new frame events (10_state.md sections 2, 5, "no rule reads them"; 60_exceptions.md
section 1; decisions D22, D23, D26; logs 1 to 5). -/
def Obligations.NoRuleReadsTheOutputs : Prop :=
  ∀ (i : Instr) (s1 s2 t1 : State), s1.cursor ≤ 67 → SameEngine s1 s2 → exec i s1 = .next t1 →
    ∃ t2, exec i s2 = .next t2 ∧ SameEngine t1 t2 ∧ t1.result = t2.result ∧
      ((t1.events = [] ∧ t2.events = []) ∨ ∃ found, t1.events = s1.events ++ found ∧ t2.events = s2.events ++ found)

/-- The event output and the trace only grow, except by RESET, and the host's stream is never changed by an operation
(10_state.md section 5; D22; logs 1, 4). -/
def Obligations.OutputsOnlyGrow : Prop :=
  ∀ (i : Instr) (s t : State), exec i s = .next t →
    t.stream = s.stream ∧ t.port = s.port ∧
    (i = .reset ∧ t.events = [] ∨ s.events <+: t.events ∧ s.trace <+: t.trace)

/-- R230: every operation completes for every operand value, and none faults: from every state of the invariant each
instruction but the reserved ones answers a next state. -/
def Obligations.EveryOperationCompletes : Prop :=
  ∀ (i : Instr) (s : State), Invariant s → notReserved i → ∃ t, exec i s = .next t

/-- A step from a state of the invariant stops only on a host action outside the spec: bytes that spell no instruction,
or a reserved opcode; it never faults (60_exceptions.md section 4; decisions D17, D18; logs 12, 14). -/
def Obligations.StepStopsOnlyOnHostActionsOutsideTheSpec : Prop :=
  ∀ s : State, Invariant s →
    (∀ e, step s ≠ .fault e) ∧
    ∀ r, step s = .refused r →
      (∃ e, r = .undecodable e ∧ decode s.port s.stream = .error e) ∨
      ∃ opcode, r = .reservedOpcode opcode ∧ 7 ≤ opcode.toNat ∧ s.stream.head? = some opcode

/-- The invariant: `cursor` is at most 66 and every frame event is valid; every step
keeps it (42_reassembler.md section 4, derived there; 10_state.md section 2). -/
def Obligations.StepKeepsTheInvariant : Prop :=
  ∀ s t : State, Invariant s → step s = .next t → Invariant t

/-- The reset state meets the invariant. -/
def Obligations.ResetMeetsTheInvariant : Prop := Invariant State.reset

/-- What the two writers of the buffer do to the bytes it holds: Append puts one byte behind them and records the arrival
time, Shift(n) drops the first n, and neither changes anything else (42_reassembler.md section 1, "Only the resulting
byte sequence `buf[0..cursor-1]` is normative"; the bytes behind are any, D26, log 5). -/
def Obligations.AppendAndShiftActOnTheHeldBytes : Prop :=
  (∀ (b : Byte) (now : Time) (s : State) (bytes : List Byte), Holds s bytes → bytes.length < 67 →
    ∃ t buf, append b now s = .ok t ∧ Holds t (bytes ++ [b]) ∧
      t = { s with buf := buf, cursor := s.cursor + 1, lastReceiveTime := now }) ∧
  ∀ (n : Nat) (s : State) (bytes : List Byte), Holds s bytes → 1 ≤ n → n ≤ bytes.length →
    Holds (shift n s) (bytes.drop n) ∧
      ∃ buf draws, shift n s = { s with buf := buf, cursor := s.cursor - n, draws := draws }

/-! ### Instances of other parameters -/

/-- An instance of any parameters, its `CRC_TABLE` among them: every instruction but the reserved ones completes from the
invariant of that table and keeps it, and so does every step (00_scope.md section 4; 40_checksum.md, "A model takes
`CRC_TABLE` as a parameter"; 42_reassembler.md section 4; D1, D8 to D10). -/
def Obligations.EveryInstanceCompletesAndKeepsTheInvariant : Prop :=
  (∀ (p : Params) (i : Instr) (s : State), i.wellFormed = true → notReserved i → Invariant s p.crcTable →
    ∃ t, execWith p i s = .next t ∧ Invariant t p.crcTable) ∧
  ∀ (p : Params) (s t : State), Invariant s p.crcTable → stepWith p s = .next t → Invariant t p.crcTable

/-- All users of the Checksum Unit use the instance's table, over the same bytes: CRC8, both encoders, and the
reassembler's check of a completed candidate (40_checksum.md, users; D1, D2; the result field log 3). -/
def Obligations.EveryUnitUsesTheInstancesTable : Prop :=
  (∀ (p : Params) (data : List Byte) (s : State),
    execWith p (.crc8 data) s = .next { s with result := .byte (tableCrc p.crcTable data) }) ∧
  (∀ (p : Params) (commandId value : Byte) (s : State), execWith p (.encCommand commandId value) s = .next { s with
    result := .frame [0xEE, 0x06, 0x2D, 0xEE, 0xEA, commandId, value,
      tableCrc p.crcTable [0x2D, 0xEE, 0xEA, commandId, value]] }) ∧
  (∀ (p : Params) (ch : List Half) (s : State), ch.length = 16 → ∃ payload : List Byte, payload.length = 22 ∧
    execWith p (.encChannels ch) s = .next { s with
      result := .frame ([0xEE, 0x18, 0x16] ++ payload ++ [tableCrc p.crcTable (0x16 :: payload)]) }) ∧
  ∀ (p : Params) (f : Frame) (now : Time) (s : State), 3 ≤ f.frameSize.toNat → f.frameSize.toNat ≤ 64 →
    f.payload.length + 2 = f.frameSize.toNat → Holds s f.bytes.dropLast →
    ∃ t found, execWith p (.rxByte f.crc now) s = .next t ∧ t.events = s.events ++ found ∧
      (found = [f] ↔ tableCrc p.crcTable (f.type :: f.payload) = f.crc)
end

