-- ==== Sys2Proof/Laws/Buffer.lean ====
section
/-! SUPPORT. How the buffer's bytes read back. -/

namespace Sys2Proof.Machine

/-- The bytes put into a buffer with room for them stand at its front. -/
theorem Buffer.take_holding (k : Nat) {bytes : List Byte} (h : bytes.length ≤ capacity) :
    (Buffer.holding k bytes).toList.take bytes.length = bytes := by
  simp [Buffer.holding, Vector.toList, List.take_take, h]

/-- A byte written behind the first `i` bytes follows them. -/
theorem Buffer.take_set (buf : Buffer) (i : Nat) (b : Byte) (h : i < capacity) :
    (buf.set i b).toList.take (i + 1) = buf.toList.take i ++ [b] := by
  have hl : i < buf.toList.length := by simpa using h
  rw [Vector.toList_set, List.take_add_one, List.take_set_of_le (Nat.le_refl i), List.getElem?_set_self hl]
  rfl

end Sys2Proof.Machine
end

