-- ==== Sys2Proof/Laws/Frame.lean ====
section
/-! SUPPORT. The checksum and the frame: running values, the table's step, valid frames and how the decoder reads
one. -/

namespace Sys2Proof

/-! ### Checksum -/

@[simp] theorem crc8From_nil (T : CrcTable) (c : Byte) : crc8From T c [] = c := rfl

theorem crc8From_cons (T : CrcTable) (c b : Byte) (data : List Byte) :
    crc8From T c (b :: data) = crc8From T (tableRead T (c ^^^ b)) data := rfl

theorem crc8From_append (T : CrcTable) (c : Byte) (l m : List Byte) :
    crc8From T c (l ++ m) = crc8From T (crc8From T c l) m := by
  induction l generalizing c with
  | nil => rfl
  | cons b l ih => simp only [List.cons_append, crc8From_cons, ih]

theorem crc8_append_singleton (T : CrcTable) (data : List Byte) (b : Byte) :
    crc8 (data ++ [b]) T = tableRead T (crc8 data T ^^^ b) := by
  simp [crc8, crc8From_append, crc8From_cons]

theorem tableRead_toList (T : CrcTable) (a : Byte) : T.toArray.toList[a.toNat]? = some (tableRead T a) := by
  have h : a.toNat < T.toArray.size := by rw [T.size_toArray]; exact a.isLt
  rw [Array.getElem?_toList, Array.getElem?_eq_getElem h]
  rfl

theorem crcBytes_eq : crcBytes = (List.range 256).map fun n => crcEntry (BitVec.ofNat 8 n) := by decide +kernel

/-- The table of R122 is the one its generating rule gives. -/
theorem tableRead_crcTable (a : Byte) : tableRead crcTable a = crcEntry a := by
  have h : crcBytes[a.toNat]? = some (tableRead crcTable a) := tableRead_toList crcTable a
  have ha := a.isLt
  simpa [crcBytes_eq, ha, eq_comm] using h

/-- The inverse of one shift through the polynomial: bit 0 tells whether the polynomial was added. -/
def crcUnshift (c : Byte) : Byte := if c.getLsbD 0 then ((c ^^^ 0xD5) >>> 1) ||| 0x80 else c >>> 1

theorem crcUnshift_crcShift (c : Byte) : crcUnshift (crcShift c) = c := by
  have h : (List.range 256).map (fun n => crcUnshift (crcShift (BitVec.ofNat 8 n))) =
      (List.range 256).map (BitVec.ofNat 8) := by decide +kernel
  have := List.map_inj_left.1 h c.toNat (List.mem_range.2 c.isLt)
  simpa using this

theorem crcShift_injective {c d : Byte} (h : crcShift c = crcShift d) : c = d := by
  rw [← crcUnshift_crcShift c, h, crcUnshift_crcShift]

/-- No two entries of the table are equal. -/
theorem tableRead_injective (a b : Byte) (h : tableRead crcTable a = tableRead crcTable b) : a = b := by
  rw [tableRead_crcTable, tableRead_crcTable] at h
  iterate 7 replace h := crcShift_injective h
  exact crcShift_injective h

theorem crc8From_injective (c d : Byte) (data : List Byte) (h : crc8From crcTable c data = crc8From crcTable d data) :
    c = d := by
  induction data generalizing c d with
  | nil => exact h
  | cons b data ih =>
    have := tableRead_injective _ _ (ih _ _ h)
    exact (BitVec.xor_left_inj b).1 this

/-! ### Frames -/

variable {T : CrcTable}

theorem Frame.valid_iff (f : Frame) (T : CrcTable) :
    f.valid T = true ↔ sizeOk f.frameSize = true ∧ f.payload.length + 2 = f.frameSize.toNat ∧ crc8 f.body T = f.crc := by
  simp [Frame.valid, and_assoc]

theorem sizeOk_iff (fs : Byte) : sizeOk fs = true ↔ 3 ≤ fs.toNat ∧ fs.toNat ≤ 64 := by
  unfold sizeOk; rw [Bool.and_eq_true, decide_eq_true_iff, decide_eq_true_iff]; rfl

theorem Frame.build_valid (a ty : Byte) {payload : List Byte} (h1 : 1 ≤ payload.length) (h2 : payload.length ≤ 62) :
    (Frame.build a ty payload T).valid T = true := by
  rw [Frame.valid_iff, sizeOk_iff]
  simp only [Frame.build, Frame.body, BitVec.toNat_ofNat, and_true]
  omega

theorem Frame.eq_build {f : Frame} (h : f.valid T = true) : f = Frame.build f.deviceAddr f.type f.payload T := by
  obtain ⟨h1, h2, h3⟩ := (Frame.valid_iff f T).1 h
  obtain ⟨a, fs, ty, pl, c⟩ := f
  simp only [Frame.body] at h2 h3
  subst h3
  simp [Frame.build, h2]

theorem Frame.payload_bounds {f : Frame} (h : f.valid T = true) : 1 ≤ f.payload.length ∧ f.payload.length ≤ 62 := by
  obtain ⟨h1, h2, -⟩ := (Frame.valid_iff f T).1 h
  have := (sizeOk_iff _).1 h1
  omega

theorem Frame.length_bytes (f : Frame) : f.bytes.length = f.payload.length + 4 := by
  simp [Frame.bytes]

theorem Frame.length_bytes_of_valid {f : Frame} (h : f.valid T = true) : f.bytes.length = f.frameSize.toNat + 2 := by
  have := ((Frame.valid_iff f T).1 h).2.1
  rw [Frame.length_bytes]; omega

theorem takeBytes_append (l rest : List Byte) : takeBytes l.length (l ++ rest) = some (l, rest) := by
  simp [takeBytes]

theorem takeBytes_eq_some {n : Nat} {s l rest : List Byte} (h : takeBytes n s = some (l, rest)) :
    s = l ++ rest ∧ l.length = n := by
  unfold takeBytes at h
  split at h
  · cases h; simp; omega
  · cases h

/-- A valid frame at the front of the bytes is read back. -/
theorem decodeFrame_bytes {f : Frame} (h : f.valid T = true) (rest : List Byte) :
    decodeFrame (f.bytes ++ rest) T = .ok (f, rest) := by
  obtain ⟨h1, h2, h3⟩ := (Frame.valid_iff f T).1 h
  have h4 : f.frameSize.toNat - 2 = f.payload.length := by omega
  have h5 := takeBytes_append f.payload (f.crc :: rest)
  simp [Frame.bytes, decodeFrame, h1, splitFrame, h4, h5, h3]

/-- What the decoder reads is a valid frame, and its bytes stand at the front. -/
theorem decodeFrame_eq_ok {bytes rest : List Byte} {f : Frame} (h : decodeFrame bytes T = .ok (f, rest)) :
    f.valid T = true ∧ bytes = f.bytes ++ rest := by
  match bytes, h with
  | a :: fs :: more, h =>
    simp only [decodeFrame] at h
    split at h
    · next hfs =>
      split at h
      · cases h
      · next g r hg =>
        split at h
        · next hc =>
          cases h
          unfold splitFrame at hg
          split at hg
          · cases hg
          · next ty more =>
            split at hg
            · next pl c r hp =>
              cases hg
              obtain ⟨rfl, hl⟩ := takeBytes_eq_some hp
              have := (sizeOk_iff _).1 hfs
              refine ⟨(Frame.valid_iff _ _).2 ⟨hfs, ?_, hc⟩, ?_⟩
              · simp only; omega
              · simp [Frame.bytes]
            · cases hg
        · cases h
    · cases h

end Sys2Proof
end

