-- ==== Sys2Proof/Laws/Decode.lean ====
section
/-! SUPPORT. Operand bytes read back, the reserved rows, and which row an inbound or outbound frame is. -/

namespace Sys2Proof

/-! ### Operand bytes -/

theorem word_of_beBytes32 (v : Word32) :
    v.extractLsb' 24 8 ++ v.extractLsb' 16 8 ++ v.extractLsb' 8 8 ++ v.extractLsb' 0 8 = v := by
  refine BitVec.eq_of_getLsbD_eq fun i hi => ?_
  simp only [BitVec.getLsbD_append, BitVec.getLsbD_extractLsb']
  grind

theorem beBytes32_append (b3 b2 b1 b0 : Byte) : beBytes32 (b3 ++ b2 ++ b1 ++ b0) = [b3, b2, b1, b0] := by
  simp only [beBytes32, List.cons.injEq, and_true]
  refine ⟨?_, ?_, ?_, ?_⟩ <;> refine BitVec.eq_of_getLsbD_eq fun i hi => ?_ <;>
    simp only [BitVec.getLsbD_append, BitVec.getLsbD_extractLsb'] <;> grind

theorem half_of_beBytes16 (v : Half) : v.extractLsb' 8 8 ++ v.extractLsb' 0 8 = v := by
  refine BitVec.eq_of_getLsbD_eq fun i hi => ?_
  simp only [BitVec.getLsbD_append, BitVec.getLsbD_extractLsb']
  grind

theorem beBytes16_append (b1 b0 : Byte) : beBytes16 (b1 ++ b0) = [b1, b0] := by
  simp only [beBytes16, List.cons.injEq, and_true]
  refine ⟨?_, ?_⟩ <;> refine BitVec.eq_of_getLsbD_eq fun i hi => ?_ <;>
    simp only [BitVec.getLsbD_append, BitVec.getLsbD_extractLsb'] <;> grind

theorem length_flatMap_beBytes16 (ch : List Half) : (ch.flatMap beBytes16).length = 2 * ch.length := by
  induction ch with
  | nil => rfl
  | cons c ch ih => simp [beBytes16, ih]; omega

theorem halvesOf_flatMap (ch : List Half) : halvesOf (ch.flatMap beBytes16) = ch := by
  induction ch with
  | nil => rfl
  | cons c ch ih => simp [beBytes16, halvesOf, ih, half_of_beBytes16]

theorem flatMap_halvesOf (n : Nat) (bytes : List Byte) (h : bytes.length = 2 * n) :
    (halvesOf bytes).flatMap beBytes16 = bytes ∧ (halvesOf bytes).length = n := by
  induction n generalizing bytes with
  | zero => simp_all [List.length_eq_zero_iff.1 h, halvesOf]
  | succ n ih =>
    match bytes, h with
    | b1 :: b0 :: rest, h =>
      have := ih rest (by simp only [List.length_cons] at h; omega)
      simp [halvesOf, beBytes16_append, this]
    | [_], h => simp at h; omega
    | [], h => simp at h

/-! ### Reserved opcodes -/

/-- A reserved opcode byte is none of the seven operation codes, and its row is one of the six RESERVED rows, with the
opcode's low bits as operand (30_encoding.md R102). -/
theorem decodeOperation_reserved (opcode : Byte) (h : 7 ≤ opcode.toNat) (rest : List Byte) :
    decodeOperation (opcode :: rest) = .ok (decodeReserved opcode, rest) := by
  have h1 : ∀ c : Byte, c.toNat < 7 → opcode ≠ c := fun c hc hcc => by subst hcc; omega
  rw [decodeOperation, if_neg (h1 _ (by decide)), if_neg (h1 _ (by decide)), if_neg (h1 _ (by decide)),
    if_neg (h1 _ (by decide)), if_neg (h1 _ (by decide)), if_neg (h1 _ (by decide)), if_neg (h1 _ (by decide))]

/-! ### Rows of frames -/

variable {T : CrcTable}

/-- The row of a valid inbound frame is well formed, comes by the inbound port and is spelled by the frame's bytes. -/
theorem inboundInstr_encode {f : Frame} (h : f.valid T = true) (now : Time) :
    (inboundInstr f now).wellFormed = true ∧ (inboundInstr f now).port = .inbound now ∧
      encode (inboundInstr f now) T = f.bytes := by
  have hb := Frame.payload_bounds h
  have he : f.bytes = (Frame.build f.deviceAddr f.type f.payload T).bytes := congrArg _ (Frame.eq_build h)
  have hp : payloadLenOk f.payload = true := by simp [payloadLenOk, hb]
  unfold inboundInstr
  split
  · next ha =>
    split <;> [skip; split <;> [skip; split <;> [skip; split <;> [skip; split <;> [skip; split <;> [skip; split]]]]]]
    all_goals (refine ⟨?_, rfl, ?_⟩)
    all_goals first
      | exact hp
      | (rw [he, ha, ‹f.type = _›]; rfl)
      | (rw [he]; rfl)
      | simp_all [Instr.wellFormed, hasOwnRow, layoutLen]
  · next ha =>
    refine ⟨?_, rfl, ?_⟩
    · simp [Instr.wellFormed, hp, hasOwnRow, ha]
    · rw [he]; rfl

/-- A frame without a row of its own is the catch-all's. -/
theorem inboundInstr_of_not_hasOwnRow {f : Frame} (h : hasOwnRow f.deviceAddr f.type = false) (now : Time) :
    inboundInstr f now = .frameOtherIn f.deviceAddr f.type f.payload now := by
  by_cases ha : f.deviceAddr = addrRadio
  · simp only [hasOwnRow, ha, beq_self_eq_true, Bool.true_and, layoutLen] at h
    simp only [inboundInstr, ha, if_true]
    iterate 7 rw [if_neg fun hc => by simp +decide [hc] at h]
  · simp [inboundInstr, ha]

/-- The row of a valid outbound frame, where it has one, is well formed, comes by the outbound port and is spelled by
the frame's bytes. -/
theorem outboundInstr_encode {f : Frame} (h : f.valid T = true) {i : Instr} (hi : outboundInstr f = some i) :
    i.wellFormed = true ∧ i.port = .outbound ∧ encode i T = f.bytes := by
  have he : f.bytes = (Frame.build f.deviceAddr f.type f.payload T).bytes := congrArg _ (Frame.eq_build h)
  unfold outboundInstr at hi
  split at hi
  · next hc =>
    cases hi
    refine ⟨by simpa [Instr.wellFormed, channelsPayloadLen] using hc.2.2, rfl, ?_⟩
    rw [he, hc.1, hc.2.1]; rfl
  · split at hi
    · next hc =>
      split at hi
      · next dest orig commandId value hp =>
        split at hi
        · next hd =>
          cases hi
          refine ⟨rfl, rfl, ?_⟩
          rw [he, hc.1, hc.2, hp, hd.1, hd.2]; rfl
        · cases hi
      · cases hi
    · cases hi

theorem outboundInstr_channelsFrame {payload : List Byte} (h : payload.length = 22) :
    outboundInstr (channelsFrame payload T) = some (.frameChannelsOut payload) := by
  simp [outboundInstr, channelsFrame, Frame.build, h, channelsPayloadLen]

theorem outboundInstr_commandFrame (commandId value : Byte) :
    outboundInstr (commandFrame commandId value T) = some (.frameCommandOut commandId value) := by
  simp +decide [outboundInstr, commandFrame, Frame.build, channelsPayloadLen]

end Sys2Proof
end

