-- ==== Sys2Proof/Laws/State.lean ====
section
/-! SUPPORT. One lemma per field per state update, so that no later proof unfolds a record update. -/

namespace Sys2Proof.Machine

variable (s : State)

@[simp] theorem shift_buf (n : Nat) : (shift n s).buf = Buffer.holding s.draws (s.held.drop n) := rfl
@[simp] theorem shift_cursor (n : Nat) : (shift n s).cursor = s.cursor - n := rfl
@[simp] theorem shift_lastReceiveTime (n : Nat) : (shift n s).lastReceiveTime = s.lastReceiveTime := rfl
@[simp] theorem shift_lastChannelsFrameTime (n : Nat) : (shift n s).lastChannelsFrameTime = s.lastChannelsFrameTime := rfl
@[simp] theorem shift_linkIsUp (n : Nat) : (shift n s).linkIsUp = s.linkIsUp := rfl
@[simp] theorem shift_battery (n : Nat) : (shift n s).battery = s.battery := rfl
@[simp] theorem shift_gps (n : Nat) : (shift n s).gps = s.gps := rfl
@[simp] theorem shift_vario (n : Nat) : (shift n s).vario = s.vario := rfl
@[simp] theorem shift_baro (n : Nat) : (shift n s).baro = s.baro := rfl
@[simp] theorem shift_attitude (n : Nat) : (shift n s).attitude = s.attitude := rfl
@[simp] theorem shift_linkStats (n : Nat) : (shift n s).linkStats = s.linkStats := rfl
@[simp] theorem shift_events (n : Nat) : (shift n s).events = s.events := rfl
@[simp] theorem shift_trace (n : Nat) : (shift n s).trace = s.trace := rfl
@[simp] theorem shift_result (n : Nat) : (shift n s).result = s.result := rfl
@[simp] theorem shift_stream (n : Nat) : (shift n s).stream = s.stream := rfl
@[simp] theorem shift_port (n : Nat) : (shift n s).port = s.port := rfl
@[simp] theorem shift_draws (n : Nat) : (shift n s).draws = s.draws + 1 := rfl

@[simp] theorem clearBuffer_buf : (clearBuffer s).buf = s.buf := rfl
@[simp] theorem clearBuffer_cursor : (clearBuffer s).cursor = 0 := rfl
@[simp] theorem clearBuffer_lastReceiveTime : (clearBuffer s).lastReceiveTime = s.lastReceiveTime := rfl
@[simp] theorem clearBuffer_lastChannelsFrameTime : (clearBuffer s).lastChannelsFrameTime = s.lastChannelsFrameTime := rfl
@[simp] theorem clearBuffer_linkIsUp : (clearBuffer s).linkIsUp = s.linkIsUp := rfl
@[simp] theorem clearBuffer_battery : (clearBuffer s).battery = s.battery := rfl
@[simp] theorem clearBuffer_gps : (clearBuffer s).gps = s.gps := rfl
@[simp] theorem clearBuffer_vario : (clearBuffer s).vario = s.vario := rfl
@[simp] theorem clearBuffer_baro : (clearBuffer s).baro = s.baro := rfl
@[simp] theorem clearBuffer_attitude : (clearBuffer s).attitude = s.attitude := rfl
@[simp] theorem clearBuffer_linkStats : (clearBuffer s).linkStats = s.linkStats := rfl
@[simp] theorem clearBuffer_events : (clearBuffer s).events = s.events := rfl
@[simp] theorem clearBuffer_trace : (clearBuffer s).trace = s.trace := rfl
@[simp] theorem clearBuffer_result : (clearBuffer s).result = s.result := rfl
@[simp] theorem clearBuffer_stream : (clearBuffer s).stream = s.stream := rfl
@[simp] theorem clearBuffer_port : (clearBuffer s).port = s.port := rfl
@[simp] theorem clearBuffer_draws : (clearBuffer s).draws = s.draws := rfl

@[simp] theorem record_buf (e : TraceEntry) : (record e s).buf = s.buf := rfl
@[simp] theorem record_cursor (e : TraceEntry) : (record e s).cursor = s.cursor := rfl
@[simp] theorem record_lastReceiveTime (e : TraceEntry) : (record e s).lastReceiveTime = s.lastReceiveTime := rfl
@[simp] theorem record_lastChannelsFrameTime (e : TraceEntry) : (record e s).lastChannelsFrameTime = s.lastChannelsFrameTime := rfl
@[simp] theorem record_linkIsUp (e : TraceEntry) : (record e s).linkIsUp = s.linkIsUp := rfl
@[simp] theorem record_battery (e : TraceEntry) : (record e s).battery = s.battery := rfl
@[simp] theorem record_gps (e : TraceEntry) : (record e s).gps = s.gps := rfl
@[simp] theorem record_vario (e : TraceEntry) : (record e s).vario = s.vario := rfl
@[simp] theorem record_baro (e : TraceEntry) : (record e s).baro = s.baro := rfl
@[simp] theorem record_attitude (e : TraceEntry) : (record e s).attitude = s.attitude := rfl
@[simp] theorem record_linkStats (e : TraceEntry) : (record e s).linkStats = s.linkStats := rfl
@[simp] theorem record_events (e : TraceEntry) : (record e s).events = s.events := rfl
@[simp] theorem record_trace (e : TraceEntry) : (record e s).trace = s.trace ++ [e] := rfl
@[simp] theorem record_result (e : TraceEntry) : (record e s).result = s.result := rfl
@[simp] theorem record_stream (e : TraceEntry) : (record e s).stream = s.stream := rfl
@[simp] theorem record_port (e : TraceEntry) : (record e s).port = s.port := rfl
@[simp] theorem record_draws (e : TraceEntry) : (record e s).draws = s.draws := rfl

@[simp] theorem emit_buf (f : Frame) : (emit f s).buf = s.buf := rfl
@[simp] theorem emit_cursor (f : Frame) : (emit f s).cursor = s.cursor := rfl
@[simp] theorem emit_lastReceiveTime (f : Frame) : (emit f s).lastReceiveTime = s.lastReceiveTime := rfl
@[simp] theorem emit_lastChannelsFrameTime (f : Frame) : (emit f s).lastChannelsFrameTime = s.lastChannelsFrameTime := rfl
@[simp] theorem emit_linkIsUp (f : Frame) : (emit f s).linkIsUp = s.linkIsUp := rfl
@[simp] theorem emit_battery (f : Frame) : (emit f s).battery = s.battery := rfl
@[simp] theorem emit_gps (f : Frame) : (emit f s).gps = s.gps := rfl
@[simp] theorem emit_vario (f : Frame) : (emit f s).vario = s.vario := rfl
@[simp] theorem emit_baro (f : Frame) : (emit f s).baro = s.baro := rfl
@[simp] theorem emit_attitude (f : Frame) : (emit f s).attitude = s.attitude := rfl
@[simp] theorem emit_linkStats (f : Frame) : (emit f s).linkStats = s.linkStats := rfl
@[simp] theorem emit_events (f : Frame) : (emit f s).events = s.events ++ [f] := rfl
@[simp] theorem emit_trace (f : Frame) : (emit f s).trace = s.trace ++ [.event] := rfl
@[simp] theorem emit_result (f : Frame) : (emit f s).result = s.result := rfl
@[simp] theorem emit_stream (f : Frame) : (emit f s).stream = s.stream := rfl
@[simp] theorem emit_port (f : Frame) : (emit f s).port = s.port := rfl
@[simp] theorem emit_draws (f : Frame) : (emit f s).draws = s.draws := rfl

@[simp] theorem giveResult_buf (r : OpResult) : (giveResult r s).buf = s.buf := rfl
@[simp] theorem giveResult_cursor (r : OpResult) : (giveResult r s).cursor = s.cursor := rfl
@[simp] theorem giveResult_lastReceiveTime (r : OpResult) : (giveResult r s).lastReceiveTime = s.lastReceiveTime := rfl
@[simp] theorem giveResult_lastChannelsFrameTime (r : OpResult) : (giveResult r s).lastChannelsFrameTime = s.lastChannelsFrameTime := rfl
@[simp] theorem giveResult_linkIsUp (r : OpResult) : (giveResult r s).linkIsUp = s.linkIsUp := rfl
@[simp] theorem giveResult_battery (r : OpResult) : (giveResult r s).battery = s.battery := rfl
@[simp] theorem giveResult_gps (r : OpResult) : (giveResult r s).gps = s.gps := rfl
@[simp] theorem giveResult_vario (r : OpResult) : (giveResult r s).vario = s.vario := rfl
@[simp] theorem giveResult_baro (r : OpResult) : (giveResult r s).baro = s.baro := rfl
@[simp] theorem giveResult_attitude (r : OpResult) : (giveResult r s).attitude = s.attitude := rfl
@[simp] theorem giveResult_linkStats (r : OpResult) : (giveResult r s).linkStats = s.linkStats := rfl
@[simp] theorem giveResult_events (r : OpResult) : (giveResult r s).events = s.events := rfl
@[simp] theorem giveResult_trace (r : OpResult) : (giveResult r s).trace = s.trace := rfl
@[simp] theorem giveResult_result (r : OpResult) : (giveResult r s).result = r := rfl
@[simp] theorem giveResult_stream (r : OpResult) : (giveResult r s).stream = s.stream := rfl
@[simp] theorem giveResult_port (r : OpResult) : (giveResult r s).port = s.port := rfl
@[simp] theorem giveResult_draws (r : OpResult) : (giveResult r s).draws = s.draws := rfl

@[simp] theorem channelsSeen_buf (now : Time) : (channelsSeen now s).buf = s.buf := rfl
@[simp] theorem channelsSeen_cursor (now : Time) : (channelsSeen now s).cursor = s.cursor := rfl
@[simp] theorem channelsSeen_lastReceiveTime (now : Time) : (channelsSeen now s).lastReceiveTime = s.lastReceiveTime := rfl
@[simp] theorem channelsSeen_lastChannelsFrameTime (now : Time) : (channelsSeen now s).lastChannelsFrameTime = now := rfl
@[simp] theorem channelsSeen_linkIsUp (now : Time) : (channelsSeen now s).linkIsUp = true := rfl
@[simp] theorem channelsSeen_battery (now : Time) : (channelsSeen now s).battery = s.battery := rfl
@[simp] theorem channelsSeen_gps (now : Time) : (channelsSeen now s).gps = s.gps := rfl
@[simp] theorem channelsSeen_vario (now : Time) : (channelsSeen now s).vario = s.vario := rfl
@[simp] theorem channelsSeen_baro (now : Time) : (channelsSeen now s).baro = s.baro := rfl
@[simp] theorem channelsSeen_attitude (now : Time) : (channelsSeen now s).attitude = s.attitude := rfl
@[simp] theorem channelsSeen_linkStats (now : Time) : (channelsSeen now s).linkStats = s.linkStats := rfl
@[simp] theorem channelsSeen_events (now : Time) : (channelsSeen now s).events = s.events := rfl
@[simp] theorem channelsSeen_trace (now : Time) : (channelsSeen now s).trace = s.trace := rfl
@[simp] theorem channelsSeen_result (now : Time) : (channelsSeen now s).result = s.result := rfl
@[simp] theorem channelsSeen_stream (now : Time) : (channelsSeen now s).stream = s.stream := rfl
@[simp] theorem channelsSeen_port (now : Time) : (channelsSeen now s).port = s.port := rfl
@[simp] theorem channelsSeen_draws (now : Time) : (channelsSeen now s).draws = s.draws := rfl

@[simp] theorem fetched_buf (rest : List Byte) : (State.fetched rest s).buf = s.buf := rfl
@[simp] theorem fetched_cursor (rest : List Byte) : (State.fetched rest s).cursor = s.cursor := rfl
@[simp] theorem fetched_lastReceiveTime (rest : List Byte) : (State.fetched rest s).lastReceiveTime = s.lastReceiveTime := rfl
@[simp] theorem fetched_lastChannelsFrameTime (rest : List Byte) : (State.fetched rest s).lastChannelsFrameTime = s.lastChannelsFrameTime := rfl
@[simp] theorem fetched_linkIsUp (rest : List Byte) : (State.fetched rest s).linkIsUp = s.linkIsUp := rfl
@[simp] theorem fetched_battery (rest : List Byte) : (State.fetched rest s).battery = s.battery := rfl
@[simp] theorem fetched_gps (rest : List Byte) : (State.fetched rest s).gps = s.gps := rfl
@[simp] theorem fetched_vario (rest : List Byte) : (State.fetched rest s).vario = s.vario := rfl
@[simp] theorem fetched_baro (rest : List Byte) : (State.fetched rest s).baro = s.baro := rfl
@[simp] theorem fetched_attitude (rest : List Byte) : (State.fetched rest s).attitude = s.attitude := rfl
@[simp] theorem fetched_linkStats (rest : List Byte) : (State.fetched rest s).linkStats = s.linkStats := rfl
@[simp] theorem fetched_events (rest : List Byte) : (State.fetched rest s).events = s.events := rfl
@[simp] theorem fetched_trace (rest : List Byte) : (State.fetched rest s).trace = s.trace := rfl
@[simp] theorem fetched_result (rest : List Byte) : (State.fetched rest s).result = s.result := rfl
@[simp] theorem fetched_stream (rest : List Byte) : (State.fetched rest s).stream = rest := rfl
@[simp] theorem fetched_port (rest : List Byte) : (State.fetched rest s).port = .operation := rfl
@[simp] theorem fetched_draws (rest : List Byte) : (State.fetched rest s).draws = s.draws := rfl

end Sys2Proof.Machine
end

