-- ==== Sys2Proof/Laws/Ops.lean ====
section
/-! SUPPORT. What the shared operations do to the buffer, and everything a dispatch can do. -/

namespace Sys2Proof.Machine

variable {s t : State} {bs : List Byte}

/-- The table of the instance that `exec` and `step` run is the default. -/
@[simp] theorem params_crcTable : Config.params.crcTable = crcTable := rfl

/-! ### The buffer -/

theorem length_held (s : State) (h : s.cursor ≤ capacity) : s.held.length = s.cursor := by
  simp [State.held, h]

theorem holds_held (h : s.cursor ≤ capacity) : Holds s s.held := ⟨(length_held s h).symm, rfl⟩

theorem cursor_le_of_holds (h : Holds s bs) : s.cursor ≤ capacity := by
  have h2 := congrArg List.length h.2
  simp only [State.held, List.length_take, Vector.length_toList] at h2
  have := h.1
  omega

/-- Holding a byte sequence is a matter of `buf` and `cursor`. -/
theorem holds_congr (h : Holds s bs) (hb : t.buf = s.buf) (hc : t.cursor = s.cursor) : Holds t bs := by
  simpa only [Holds, State.held, hb, hc] using h

/-- A shift drops the first `n` bytes of what the buffer holds. -/
theorem held_shift (n : Nat) (h : s.cursor ≤ capacity) : (shift n s).held = s.held.drop n := by
  have hl : (s.held.drop n).length = s.cursor - n := by rw [List.length_drop, length_held s h]
  have := Buffer.take_holding s.draws (bytes := s.held.drop n) (by omega)
  rwa [hl] at this

theorem holds_shift (h : Holds s bs) (n : Nat) : Holds (shift n s) (bs.drop n) := by
  refine ⟨?_, ?_⟩
  · rw [shift_cursor, h.1, List.length_drop]
  · rw [held_shift n (cursor_le_of_holds h), h.2]

theorem append_of_lt {b : Byte} {now : Time} (h : s.cursor < capacity) :
    append b now s =
      .ok { s with lastReceiveTime := now, buf := s.buf.set s.cursor b, cursor := s.cursor + 1 } :=
  dif_pos h

theorem append_of_not_lt {b : Byte} {now : Time} (h : ¬ s.cursor < capacity) :
    append b now s = .error .bufferOverrun :=
  dif_neg h

/-- Everything an append that does not fault does. -/
theorem append_ok {b : Byte} {now : Time} (h : append b now s = .ok t) :
    s.cursor < capacity ∧ t.held = s.held ++ [b] ∧
      ∃ buf, t = { s with lastReceiveTime := now, buf := buf, cursor := s.cursor + 1 } := by
  by_cases hc : s.cursor < capacity
  · rw [append_of_lt hc] at h
    cases h
    exact ⟨hc, Buffer.take_set _ _ _ hc, _, rfl⟩
  · rw [append_of_not_lt hc] at h
    cases h

theorem holds_append {b : Byte} {now : Time} (h : Holds s bs) (ht : append b now s = .ok t) :
    Holds t (bs ++ [b]) := by
  obtain ⟨-, h2, buf, rfl⟩ := append_ok ht
  exact ⟨by simp [h.1], by rw [h2, h.2]⟩

/-- What the buffer holds stands at its front. -/
theorem toList_of_holds (h : Holds s bs) : s.buf.toList = bs ++ s.buf.toList.drop s.cursor := by
  rw [← h.2]; exact (List.take_append_drop _ _).symm

theorem bufRead_of_holds (h : Holds s bs) {i : Nat} {b : Byte} (hi : bs[i]? = some b) (hc : i < capacity) :
    bufRead i s hc = b := by
  obtain ⟨hl, hb⟩ := List.getElem?_eq_some_iff.1 hi
  have h1 : s.buf.toList[i]? = some b := by rw [toList_of_holds h, List.getElem?_append_left hl, hi]
  have h2 : s.buf.toList[i]? = some (s.buf[i]) := by simp
  exact Option.some.inj (h2.symm.trans h1)

theorem bufRange_of_holds (h : Holds s bs) {i n : Nat} (hi : i + n ≤ bs.length) :
    bufRange i n s = (bs.drop i).take n := by
  unfold bufRange
  rw [toList_of_holds h, List.drop_append_of_le_length (by omega), List.take_append_of_le_length (by simp; omega)]

theorem length_bufRange {i n : Nat} (s : State) (h : i + n ≤ capacity) : (bufRange i n s).length = n := by
  simp [bufRange]; omega

/-! ### Dispatch -/

/-- The seven recognized types with their layout lengths (30_encoding.md R85). -/
theorem layoutLen_cases {ty : Byte} {n : Nat} (h : layoutLen ty = some n) :
    (ty = typeChannels ∧ n = 22) ∨ (ty = typeBattery ∧ n = 8) ∨ (ty = typeGps ∧ n = 15) ∨
    (ty = typeVario ∧ n = 2) ∨ (ty = typeBaro ∧ n = 4) ∨ (ty = typeAttitude ∧ n = 6) ∨
    (ty = typeLinkStats ∧ n = 10) := by
  unfold layoutLen at h
  split at h <;> [skip; split at h <;> [skip; split at h <;> [skip; split at h <;> [skip; split at h <;>
    [skip; split at h <;> [skip; split at h]]]]]] <;> simp_all

theorem batteryOf_of_le {p : List Byte} (h : 8 ≤ p.length) : ∃ r, batteryOf p = some r := by
  match p, h with
  | b0 :: b1 :: b2 :: b3 :: b4 :: b5 :: b6 :: b7 :: _, _ => exact ⟨_, rfl⟩

theorem length_of_batteryOf {p : List Byte} {r : Battery} (h : batteryOf p = some r) : 8 ≤ p.length := by
  by_contra hl
  have : p[7]? = none := List.getElem?_eq_none (by omega)
  simp [batteryOf, be8, be16, be24, this] at h

theorem gpsOf_of_le {p : List Byte} (h : 15 ≤ p.length) : ∃ r, gpsOf p = some r := by
  match p, h with
  | b0 :: b1 :: b2 :: b3 :: b4 :: b5 :: b6 :: b7 :: b8 :: b9 :: b10 :: b11 :: b12 :: b13 :: b14 :: _, _ => exact ⟨_, rfl⟩

theorem length_of_gpsOf {p : List Byte} {r : Gps} (h : gpsOf p = some r) : 15 ≤ p.length := by
  by_contra hl
  have : p[14]? = none := List.getElem?_eq_none (by omega)
  simp [gpsOf, be8, be16, be32, this] at h

theorem varioOf_of_le {p : List Byte} (h : 2 ≤ p.length) : ∃ r, varioOf p = some r := by
  match p, h with
  | b0 :: b1 :: _, _ => exact ⟨_, rfl⟩

theorem length_of_varioOf {p : List Byte} {r : Vario} (h : varioOf p = some r) : 2 ≤ p.length := by
  by_contra hl
  have : p[1]? = none := List.getElem?_eq_none (by omega)
  simp [varioOf, be16, this] at h

theorem baroOf_of_le {p : List Byte} (h : 4 ≤ p.length) : ∃ r, baroOf p = some r := by
  match p, h with
  | b0 :: b1 :: b2 :: b3 :: _, _ => exact ⟨_, rfl⟩

theorem length_of_baroOf {p : List Byte} {r : Baro} (h : baroOf p = some r) : 4 ≤ p.length := by
  by_contra hl
  have : p[3]? = none := List.getElem?_eq_none (by omega)
  simp [baroOf, be16, this] at h

theorem attitudeOf_of_le {p : List Byte} (h : 6 ≤ p.length) : ∃ r, attitudeOf p = some r := by
  match p, h with
  | b0 :: b1 :: b2 :: b3 :: b4 :: b5 :: _, _ => exact ⟨_, rfl⟩

theorem length_of_attitudeOf {p : List Byte} {r : Attitude} (h : attitudeOf p = some r) : 6 ≤ p.length := by
  by_contra hl
  have : p[5]? = none := List.getElem?_eq_none (by omega)
  simp [attitudeOf, be16, this] at h

theorem linkStatsOf_of_le {p : List Byte} (h : 10 ≤ p.length) : ∃ r, linkStatsOf p = some r := by
  match p, h with
  | b0 :: b1 :: b2 :: b3 :: b4 :: b5 :: b6 :: b7 :: b8 :: b9 :: _, _ => exact ⟨_, rfl⟩

theorem length_of_linkStatsOf {p : List Byte} {r : LinkStats} (h : linkStatsOf p = some r) : 10 ≤ p.length := by
  by_contra hl
  have : p[9]? = none := List.getElem?_eq_none (by omega)
  simp [linkStatsOf, be8, this] at h

/-- Everything a dispatch can do: record why the frame is ignored, mark the link alive, or write one whole record from
the payload of an accepted frame of its type. -/
theorem dispatch_cases (f : Frame) (now : Time) (s : State) :
    (∃ e, dispatch f now s = record e s ∧
      (e = .eAddr f.deviceAddr ∨ e = .eType f.type ∨ e = .eShort f.type f.payload.length)) ∨
    (f.deviceAddr = addrRadio ∧
      ((f.type = typeChannels ∧ 22 ≤ f.payload.length ∧ dispatch f now s = channelsSeen now s) ∨
       (f.type = typeBattery ∧ ∃ r, batteryOf f.payload = some r ∧ dispatch f now s = { s with battery := r }) ∨
       (f.type = typeGps ∧ ∃ r, gpsOf f.payload = some r ∧ dispatch f now s = { s with gps := r }) ∨
       (f.type = typeVario ∧ ∃ r, varioOf f.payload = some r ∧ dispatch f now s = { s with vario := r }) ∨
       (f.type = typeBaro ∧ ∃ r, baroOf f.payload = some r ∧ dispatch f now s = { s with baro := r }) ∨
       (f.type = typeAttitude ∧ ∃ r, attitudeOf f.payload = some r ∧ dispatch f now s = { s with attitude := r }) ∨
       (f.type = typeLinkStats ∧ ∃ r, linkStatsOf f.payload = some r ∧ dispatch f now s = { s with linkStats := r }))) := by
  unfold dispatch
  split
  · next hm =>
    have ha : f.deviceAddr = addrRadio := by simpa [acceptAddrs] using hm
    split
    · exact .inl ⟨_, rfl, .inr (.inl rfl)⟩
    · next n hn =>
      split
      · exact .inl ⟨_, rfl, .inr (.inr rfl)⟩
      · next hl =>
        refine .inr ⟨ha, ?_⟩
        have hle : n ≤ f.payload.length := by omega
        rcases layoutLen_cases hn with ⟨h, rfl⟩ | ⟨h, rfl⟩ | ⟨h, rfl⟩ | ⟨h, rfl⟩ | ⟨h, rfl⟩ | ⟨h, rfl⟩ | ⟨h, rfl⟩
        · simp +decide [h, runDecoder, hle]
        · obtain ⟨r, hr⟩ := batteryOf_of_le hle
          simp +decide [h, runDecoder, decodeBattery, hr]
        · obtain ⟨r, hr⟩ := gpsOf_of_le hle
          simp +decide [h, runDecoder, decodeGps, hr]
        · obtain ⟨r, hr⟩ := varioOf_of_le hle
          simp +decide [h, runDecoder, decodeVario, hr]
        · obtain ⟨r, hr⟩ := baroOf_of_le hle
          simp +decide [h, runDecoder, decodeBaro, hr]
        · obtain ⟨r, hr⟩ := attitudeOf_of_le hle
          simp +decide [h, runDecoder, decodeAttitude, hr]
        · obtain ⟨r, hr⟩ := linkStatsOf_of_le hle
          simp +decide [h, runDecoder, decodeLinkStats, hr]
  · exact .inl ⟨_, rfl, .inl rfl⟩

/-- An accepted frame whose payload holds its layout is decoded. -/
theorem dispatch_build_of_le {type : Byte} {n : Nat} {T : CrcTable} (h : layoutLen type = some n) (payload : List Byte)
    (hl : n ≤ payload.length) (now : Time) (s : State) :
    dispatch (Frame.build addrRadio type payload T) now s = runDecoder type payload now s := by
  have : ¬ payload.length < n := by omega
  simp [dispatch, Frame.build, acceptAddrs, h, this]

/-- An accepted frame whose payload is too short for its layout only leaves a trace. -/
theorem dispatch_build_of_lt {type : Byte} {n : Nat} {T : CrcTable} (h : layoutLen type = some n) (payload : List Byte)
    (hl : payload.length < n) (now : Time) (s : State) :
    dispatch (Frame.build addrRadio type payload T) now s = record (.eShort type payload.length) s := by
  simp [dispatch, Frame.build, acceptAddrs, h, hl]

/-- An accepted frame of an unrecognized type only leaves a trace. -/
theorem dispatch_of_unrecognized {f : Frame} (ha : f.deviceAddr = addrRadio) (h : layoutLen f.type = none) (now : Time)
    (s : State) : dispatch f now s = record (.eType f.type) s := by
  simp [dispatch, acceptAddrs, ha, h]

/-- A frame of another address only leaves a trace. -/
theorem dispatch_of_otherAddr {f : Frame} (ha : f.deviceAddr ≠ addrRadio) (now : Time) (s : State) :
    dispatch f now s = record (.eAddr f.deviceAddr) s := by
  simp [dispatch, acceptAddrs, ha]

/-- What no dispatch changes. -/
theorem dispatch_frame (f : Frame) (now : Time) (s : State) :
    (dispatch f now s).buf = s.buf ∧ (dispatch f now s).cursor = s.cursor ∧
    (dispatch f now s).lastReceiveTime = s.lastReceiveTime ∧ (dispatch f now s).events = s.events ∧
    (dispatch f now s).result = s.result ∧ (dispatch f now s).stream = s.stream ∧
    (dispatch f now s).port = s.port ∧ (dispatch f now s).draws = s.draws := by
  rcases dispatch_cases f now s with ⟨e, h, -⟩ | ⟨-, ⟨-, -, h⟩ | ⟨-, r, -, h⟩ | ⟨-, r, -, h⟩ | ⟨-, r, -, h⟩ |
    ⟨-, r, -, h⟩ | ⟨-, r, -, h⟩ | ⟨-, r, -, h⟩⟩ <;> simp [h]

@[simp] theorem dispatch_buf (f : Frame) (now : Time) : (dispatch f now s).buf = s.buf := (dispatch_frame f now s).1
@[simp] theorem dispatch_cursor (f : Frame) (now : Time) : (dispatch f now s).cursor = s.cursor :=
  (dispatch_frame f now s).2.1
@[simp] theorem dispatch_lastReceiveTime (f : Frame) (now : Time) :
    (dispatch f now s).lastReceiveTime = s.lastReceiveTime := (dispatch_frame f now s).2.2.1
@[simp] theorem dispatch_events (f : Frame) (now : Time) : (dispatch f now s).events = s.events :=
  (dispatch_frame f now s).2.2.2.1
@[simp] theorem dispatch_result (f : Frame) (now : Time) : (dispatch f now s).result = s.result :=
  (dispatch_frame f now s).2.2.2.2.1
@[simp] theorem dispatch_stream (f : Frame) (now : Time) : (dispatch f now s).stream = s.stream :=
  (dispatch_frame f now s).2.2.2.2.2.1
@[simp] theorem dispatch_port (f : Frame) (now : Time) : (dispatch f now s).port = s.port :=
  (dispatch_frame f now s).2.2.2.2.2.2.1
@[simp] theorem dispatch_draws (f : Frame) (now : Time) : (dispatch f now s).draws = s.draws :=
  (dispatch_frame f now s).2.2.2.2.2.2.2

@[simp] theorem frameFound_buf (f : Frame) (now : Time) : (frameFound f now s).buf = s.buf := by simp [frameFound]
@[simp] theorem frameFound_cursor (f : Frame) (now : Time) : (frameFound f now s).cursor = s.cursor := by
  simp [frameFound]
@[simp] theorem frameFound_lastReceiveTime (f : Frame) (now : Time) :
    (frameFound f now s).lastReceiveTime = s.lastReceiveTime := by simp [frameFound]
@[simp] theorem frameFound_events (f : Frame) (now : Time) : (frameFound f now s).events = s.events ++ [f] := by
  simp [frameFound]
@[simp] theorem frameFound_result (f : Frame) (now : Time) : (frameFound f now s).result = s.result := by
  simp [frameFound]
@[simp] theorem frameFound_stream (f : Frame) (now : Time) : (frameFound f now s).stream = s.stream := by
  simp [frameFound]
@[simp] theorem frameFound_port (f : Frame) (now : Time) : (frameFound f now s).port = s.port := by
  simp [frameFound]
@[simp] theorem frameFound_draws (f : Frame) (now : Time) : (frameFound f now s).draws = s.draws := by
  simp [frameFound]

theorem holds_frameFound {f : Frame} {now : Time} (h : Holds s bs) : Holds (frameFound f now s) bs :=
  holds_congr h (by simp) (by simp)

/-! ### Timeouts -/

theorem expired_iff (now t threshold : Time) :
    expired now t threshold = true ↔ threshold.toNat < (elapsed now t).toNat := by simp [expired]

/-- Elapsed time on integers (00_scope.md R21). -/
theorem elapsed_toNat (now t : Time) : (elapsed now t).toNat = (now.toNat + 2 ^ 32 - t.toNat) % 2 ^ 32 := by
  unfold elapsed; rw [BitVec.toNat_sub]; congr 1; omega

/-- Everything the fail-safe check can do. -/
theorem failsafeCheck_cases (p : Params) (now : Time) (s : State) :
    (failsafeCheck p now s = s ∧ (s.linkIsUp = true → ¬ p.failsafe.toNat < (elapsed now s.lastChannelsFrameTime).toNat)) ∨
    (failsafeCheck p now s = { s with linkIsUp := false } ∧ s.linkIsUp = true ∧
      p.failsafe.toNat < (elapsed now s.lastChannelsFrameTime).toNat) := by
  unfold failsafeCheck
  split
  · next h => exact .inr ⟨rfl, h.1, (expired_iff _ _ _).1 h.2⟩
  · next h => exact .inl ⟨rfl, fun hu he => h ⟨hu, (expired_iff _ _ _).2 he⟩⟩

/-- The fail-safe check changes at most the link flag. -/
theorem failsafeCheck_frame (p : Params) (now : Time) (s : State) :
    ∃ up, failsafeCheck p now s = { s with linkIsUp := up } := by
  rcases failsafeCheck_cases p now s with ⟨h, -⟩ | ⟨h, -⟩
  · exact ⟨s.linkIsUp, h⟩
  · exact ⟨false, h⟩

end Sys2Proof.Machine
end

