-- ==== Sys2Proof/Laws/Reassembler.lean ====
section
/-! SUPPORT. What one pass of the evaluation finds and does, and the rule by which a property of states is carried
through Evaluate, the flush, RX_BYTE and POLL. -/

namespace Sys2Proof.Machine

variable {s t s' : State} {bs : List Byte} {p : Params} {now : Time}

/-! ### What is found at the front -/

theorem front_of_badLength {first size : Byte} {r : List Byte} (h : Holds s (first :: size :: r))
    (hs : sizeOk size = false) : front p s = .badLength first size := by
  have h0 := bufRead_of_holds h (i := 0) (b := first) rfl (by decide)
  have h1 := bufRead_of_holds h (i := 1) (b := size) rfl (by decide)
  simp [front, h0, h1, hs]

theorem front_of_incomplete {first size : Byte} {r : List Byte} (h : Holds s (first :: size :: r))
    (hs : sizeOk size = true) (hl : r.length < size.toNat) : front p s = .incomplete := by
  have h1 := bufRead_of_holds h (i := 1) (b := size) rfl (by decide)
  have hc := h.1
  simp only [List.length_cons] at hc
  have : s.cursor < size.toNat + 2 := by omega
  simp [front, h1, hs, this]

/-- A complete candidate is read field by field. -/
theorem front_of_complete {f : Frame} {rest : List Byte} (h : Holds s (f.bytes ++ rest))
    (hs : sizeOk f.frameSize = true) (hl : f.payload.length + 2 = f.frameSize.toNat) : front p s = checkFrame p f := by
  obtain ⟨a, fs, ty, pl, c⟩ := f
  simp only at hs hl
  have hc := h.1
  simp only [Frame.bytes, List.length_append, List.length_cons] at hc
  have h0 := bufRead_of_holds h (i := 0) (b := a) rfl (by decide)
  have h1 := bufRead_of_holds h (i := 1) (b := fs) rfl (by decide)
  have h2 := bufRead_of_holds h (i := 2) (b := ty) rfl (by decide)
  have h3 := bufRange_of_holds h (i := 3) (n := fs.toNat - 2) (by simp [Frame.bytes]; omega)
  have h4 := bufRead_of_holds h (i := fs.toNat + 1) (b := c) (by
    rw [← hl]; simp [Frame.bytes]) (lt_capacity_of_sizeOk hs)
  have h5 : fs.toNat - 2 = pl.length := by omega
  rw [h5] at h3
  simp only [Frame.bytes, List.cons_append, List.drop_succ_cons, List.drop_zero, List.append_assoc,
    List.take_left'] at h3
  have h6 : ¬ s.cursor < fs.toNat + 2 := by omega
  simp [front, frontFrame, h0, h1, h2, h3, h4, h5, hs, h6]

theorem front_of_frame {f : Frame} {rest : List Byte} (h : Holds s (f.bytes ++ rest))
    (hf : f.valid p.crcTable = true) : front p s = .frame f := by
  obtain ⟨h1, h2, h3⟩ := (Frame.valid_iff f _).1 hf
  rw [front_of_complete h h1 h2, checkFrame, if_pos h3]

/-- A byte sequence of at least two bytes starts with a bad length, an incomplete candidate or a complete one. -/
theorem candidate_cases {bs : List Byte} (h : 2 ≤ bs.length) :
    (∃ first size r, bs = first :: size :: r ∧ sizeOk size = false) ∨
    (∃ first size r, bs = first :: size :: r ∧ sizeOk size = true ∧ r.length < size.toNat) ∨
    (∃ (f : Frame) (rest : List Byte), bs = f.bytes ++ rest ∧ sizeOk f.frameSize = true ∧
      f.payload.length + 2 = f.frameSize.toNat) := by
  match bs, h with
  | first :: size :: r, _ =>
    cases hs : sizeOk size
    · exact .inl ⟨_, _, _, rfl, hs⟩
    · by_cases hl : r.length < size.toNat
      · exact .inr (.inl ⟨_, _, _, rfl, hs, hl⟩)
      · have h3 := (sizeOk_iff _).1 hs
        match r, hl with
        | [], hl => simp at hl; omega
        | ty :: r, hl =>
          simp only [List.length_cons] at hl
          have hd : r.drop (size.toNat - 2) ≠ [] := by
            rw [ne_eq, List.drop_eq_nil_iff]; omega
          obtain ⟨c, rest, hc⟩ := List.exists_cons_of_ne_nil hd
          refine .inr (.inr ⟨⟨first, size, ty, r.take (size.toNat - 2), c⟩, rest, ?_, hs, ?_⟩)
          · simp [Frame.bytes, ← hc]
          · simp only [List.length_take]; omega

/-- Everything found to be a frame is a valid and complete one, in any state. -/
theorem front_frame {f : Frame} (h : front p s = .frame f) :
    f.valid p.crcTable = true ∧ f.frameSize.toNat + 2 ≤ s.cursor := by
  unfold front at h
  split at h
  · next hs =>
    split at h
    · cases h
    · unfold checkFrame at h
      split at h
      · next he =>
        cases h
        have hb := (sizeOk_iff _).1 hs
        have hp := length_bufRange (i := 3) (n := (bufRead 1 s).toNat - 2) s (by
          have h67 : capacity = 67 := rfl
          omega)
        refine ⟨(Frame.valid_iff _ _).2 ⟨hs, ?_, he⟩, ?_⟩ <;> simp only [frontFrame] <;> omega
      · cases h
  · cases h

/-! ### One action -/

/-- Everything an action can be: one byte dropped, or a valid frame dispatched and dropped. -/
theorem act_cases (h : act now s (front p s) = some s') :
    (∃ e, s' = shift 1 (record e s) ∧ ∀ lost, e ≠ .eOvf lost) ∨
    (∃ f, front p s = .frame f ∧ f.valid p.crcTable = true ∧ f.frameSize.toNat + 2 ≤ s.cursor ∧
      s' = shift (f.frameSize.toNat + 2) (frameFound f now s)) := by
  cases hf : front p s with
  | badLength a b => rw [hf] at h; cases h; exact .inl ⟨_, rfl, nofun⟩
  | incomplete => rw [hf] at h; cases h
  | badChecksum a b c => rw [hf] at h; cases h; exact .inl ⟨_, rfl, nofun⟩
  | frame f =>
    rw [hf] at h
    cases h
    obtain ⟨h1, h2⟩ := front_frame hf
    exact .inr ⟨f, rfl, h1, h2, rfl⟩

/-- An action lowers the cursor. -/
theorem act_cursor (hc : 2 ≤ s.cursor) (h : act now s (front p s) = some s') : s'.cursor < s.cursor := by
  rcases act_cases h with ⟨e, rfl, -⟩ | ⟨f, -, -, -, rfl⟩
  · simp only [shift_cursor, record_cursor]; omega
  · simp only [shift_cursor, frameFound_cursor]; omega

/-- No action: the front candidate is incomplete. -/
theorem front_of_act_none (h : act now s (front p s) = none) : front p s = .incomplete := by
  cases hf : front p s <;> rw [hf] at h <;> first | rfl | cases h

/-! ### Carrying a property through the loops -/

/-- `P` survives an action on a buffer of two bytes or more. -/
abbrev KeptByActions (p : Params) (now : Time) (P : State → Prop) : Prop :=
  ∀ s s', P s → 2 ≤ s.cursor → act now s (front p s) = some s' → P s'

/-- `P` survives a trace record other than that of an overflow reset. -/
abbrev KeptByRecords (P : State → Prop) : Prop := ∀ s e, (∀ lost, e ≠ .eOvf lost) → P s → P (record e s)

theorem evaluateLoop_keeps {P : State → Prop} (ha : KeptByActions p now P) (hr : KeptByRecords P) (bound k : Nat)
    (hs : P s) : P (evaluateLoop p now bound k s).2 := by
  induction bound generalizing k s with
  | zero => exact hs
  | succ bound ih =>
    unfold evaluateLoop
    split
    · exact hs
    · next hc =>
      split
      · exact hr _ _ nofun hs
      · split
        · exact hs
        · next s1 h1 => exact ih _ (ha _ _ hs (by omega) h1)

theorem evaluate_keeps {P : State → Prop} (ha : KeptByActions p now P) (hr : KeptByRecords P) (hs : P s) :
    P (evaluate p now s).2 :=
  evaluateLoop_keeps ha hr _ _ hs

theorem evaluateAll_keeps {P : State → Prop} (ha : KeptByActions p now P) (hr : KeptByRecords P) (bound : Nat)
    (hs : P s) : P (evaluateAll p now bound s) := by
  induction bound generalizing s with
  | zero => exact hs
  | succ bound ih =>
    have he := evaluate_keeps ha hr hs
    unfold evaluateAll
    split
    · next h => rw [h] at he; exact he
    · next h => rw [h] at he; exact ih he

theorem flushLoop_keeps {P : State → Prop} (ha : KeptByActions p now P) (hr : KeptByRecords P)
    (hd : ∀ s, P s → P (flushOne s)) (bound : Nat) (hs : P s) : P (flushLoop p now bound s) := by
  induction bound generalizing s with
  | zero => exact hs
  | succ bound ih =>
    unfold flushLoop
    split
    · exact hs
    · exact ih (hd _ (evaluateAll_keeps ha hr _ hs))

theorem timeoutFlush_keeps {P : State → Prop} (ha : KeptByActions p now P) (hr : KeptByRecords P)
    (hd : ∀ s, P s → P (flushOne s)) (hs : P s) : P (timeoutFlush p now s) := by
  unfold timeoutFlush
  split
  · exact flushLoop_keeps ha hr hd _ (hr _ (.eTmo _) nofun hs)
  · exact hs

theorem poll_keeps {P : State → Prop} (ha : KeptByActions p now P) (hr : KeptByRecords P)
    (hd : ∀ s, P s → P (flushOne s)) (hl : ∀ s, P s → P (failsafeCheck p now s)) (hs : P s) : P (poll p now s) :=
  hl _ (timeoutFlush_keeps ha hr hd hs)

/-! ### The cursor -/

theorem cursor_action (n : Nat) : KeptByActions p now (fun s => s.cursor ≤ n) := by
  intro s s' hs hc ha
  have h1 := act_cursor hc ha
  have h2 : s.cursor ≤ n := hs
  show s'.cursor ≤ n
  omega

theorem cursor_record (n : Nat) : KeptByRecords (fun s => s.cursor ≤ n) := fun _ _ _ h => h

theorem flushOne_cursor (s : State) : (flushOne s).cursor = s.cursor - 1 := by
  unfold flushOne
  split
  · omega
  · simp

theorem evaluate_cursor_le (p : Params) (now : Time) (s : State) : (evaluate p now s).2.cursor ≤ s.cursor :=
  evaluate_keeps (P := fun u => u.cursor ≤ s.cursor) (cursor_action _) (cursor_record _) (Nat.le_refl _)

theorem evaluateAll_cursor_le (p : Params) (now : Time) (bound : Nat) (s : State) :
    (evaluateAll p now bound s).cursor ≤ s.cursor :=
  evaluateAll_keeps (P := fun u => u.cursor ≤ s.cursor) (cursor_action _) (cursor_record _) bound (Nat.le_refl _)

theorem poll_cursor_le (p : Params) (now : Time) (s : State) : (poll p now s).cursor ≤ s.cursor := by
  refine poll_keeps (P := fun u => u.cursor ≤ s.cursor) (cursor_action _) (cursor_record _) ?_ ?_ (Nat.le_refl _)
  · intro u hu
    have h : u.cursor ≤ s.cursor := hu
    show (flushOne u).cursor ≤ s.cursor
    rw [flushOne_cursor]; omega
  · intro u hu
    obtain ⟨up, h⟩ := failsafeCheck_frame p now u
    rw [h]; exact hu

/-! ### How an evaluation stops -/

/-- An evaluation whose bound is at least the cursor stops because fewer than two bytes are left, because the front
candidate is incomplete, or at the cap (42_reassembler.md R152). -/
theorem evaluateLoop_stop {bound k : Nat} {r : EvalStop} (hb : s.cursor ≤ bound)
    (h : evaluateLoop p now bound k s = (r, t)) :
    (r = .done ∧ (t.cursor < 2 ∨ front p t = .incomplete)) ∨ (r = .capped ∧ 2 ≤ t.cursor) := by
  induction bound generalizing k s with
  | zero => cases h; exact .inl ⟨rfl, .inl (by omega)⟩
  | succ bound ih =>
    unfold evaluateLoop at h
    split at h
    · next hc => cases h; exact .inl ⟨rfl, .inl hc⟩
    · next hc =>
      split at h
      · cases h; exact .inr ⟨rfl, by simp only [record_cursor]; omega⟩
      · split at h
        · next hn =>
          have hf := front_of_act_none hn
          cases h
          exact .inl ⟨rfl, .inr hf⟩
        · next s1 h1 =>
          have := act_cursor (by omega) h1
          exact ih (by omega) h

/-- A capped evaluation has dropped at least one byte, because the cap is at least 1. -/
theorem evaluate_capped_lt (h : evaluate p now s = (.capped, t)) : t.cursor < s.cursor := by
  unfold evaluate at h
  cases hc : s.cursor with
  | zero => rw [hc] at h; cases h
  | succ n =>
    rw [hc] at h
    unfold evaluateLoop at h
    split at h
    · cases h
    · next h2 =>
      rw [if_neg (by unfold Params.reprocCap; omega)] at h
      split at h
      · cases h
      · next s1 h1 =>
        have h3 := act_cursor (by omega) h1
        have h4 := evaluateLoop_keeps (P := fun u => u.cursor ≤ s1.cursor) (p := p) (now := now) (cursor_action _)
          (cursor_record _) n 1 (Nat.le_refl _)
        rw [show evaluateLoop p now n 1 s1 = (.capped, t) from h] at h4
        have h5 : t.cursor ≤ s1.cursor := h4
        omega

/-- With a bound of at least the cursor, the repeated evaluation ends in one that was not capped: the bound is never
what ends it (42_reassembler.md R157, R162). -/
theorem evaluateAll_stop {bound : Nat} (hb : s.cursor ≤ bound) :
    (evaluateAll p now bound s).cursor < 2 ∨ front p (evaluateAll p now bound s) = .incomplete := by
  induction bound generalizing s with
  | zero => exact .inl (show s.cursor < 2 by omega)
  | succ bound ih =>
    unfold evaluateAll
    split
    · next h1 =>
      rcases evaluateLoop_stop (Nat.le_refl _) h1 with ⟨-, h2⟩ | ⟨h2, -⟩
      · exact h2
      · cases h2
    · next h1 =>
      have := evaluate_capped_lt h1
      exact ih (by omega)

/-- With a bound of at least the cursor, the flush ends with the buffer empty (42_reassembler.md R157). -/
theorem flushLoop_cursor {bound : Nat} (hb : s.cursor ≤ bound) : (flushLoop p now bound s).cursor = 0 := by
  induction bound generalizing s with
  | zero => show s.cursor = 0; omega
  | succ bound ih =>
    unfold flushLoop
    split
    · assumption
    · have h2 := evaluateAll_cursor_le p now s.cursor s
      exact ih (by rw [flushOne_cursor]; omega)

theorem timeoutFlush_of_not (h : s.cursor = 0 ∨ (elapsed now s.lastReceiveTime).toNat ≤ p.rxTimeout.toNat) :
    timeoutFlush p now s = s := by
  unfold timeoutFlush
  rw [if_neg]
  rw [expired_iff]
  omega

theorem timeoutFlush_of_expired (hc : 0 < s.cursor)
    (h : p.rxTimeout.toNat < (elapsed now s.lastReceiveTime).toNat) :
    timeoutFlush p now s = flushLoop p now s.cursor (record (.eTmo s.held) s) := by
  unfold timeoutFlush
  rw [if_pos ⟨hc, (expired_iff _ _ _).2 h⟩]

/-- After the receive-timeout flush the buffer is empty or its timeout has not run out: a second flush at the same
clock reading does nothing. -/
theorem timeoutFlush_settles (p : Params) (now : Time) (s : State) :
    (timeoutFlush p now s).cursor = 0 ∨
      (timeoutFlush p now s = s ∧ (elapsed now s.lastReceiveTime).toNat ≤ p.rxTimeout.toNat) := by
  by_cases hc : s.cursor = 0 ∨ (elapsed now s.lastReceiveTime).toNat ≤ p.rxTimeout.toNat
  · rw [timeoutFlush_of_not hc]
    rcases hc with hc | hc
    · exact .inl hc
    · exact .inr ⟨rfl, hc⟩
  · rw [timeoutFlush_of_expired (by omega) (by omega)]
    exact .inl (flushLoop_cursor (s := record _ s) (Nat.le_refl s.cursor))

/-- An incomplete candidate is shorter than the longest frame. -/
theorem cursor_of_incomplete (h : front p s = .incomplete) : s.cursor < 66 := by
  unfold front at h
  split at h
  · next hs =>
    have := (sizeOk_iff _).1 hs
    split at h
    · omega
    · unfold checkFrame at h; split at h <;> cases h
  · cases h

/-- After the evaluation of a buffer of at most CAPACITY bytes there is room for one more (42_reassembler.md R158,
R159). -/
theorem evaluate_lt_capacity (hc : s.cursor ≤ capacity) : (evaluate p now s).2.cursor < capacity := by
  have h67 : capacity = 67 := rfl
  obtain ⟨⟨r, t⟩, h⟩ : ∃ rt, evaluate p now s = rt := ⟨_, rfl⟩
  rw [h]
  show t.cursor < capacity
  rcases evaluateLoop_stop (Nat.le_refl _) h with ⟨-, h1 | h1⟩ | ⟨rfl, -⟩
  · omega
  · have := cursor_of_incomplete h1; omega
  · have := evaluate_capped_lt h; omega

/-- So the overflow check changes nothing. -/
theorem overflowCheck_of_lt (h : s.cursor < capacity) : overflowCheck s = s := by
  unfold overflowCheck; rw [if_neg (by omega)]

/-- RX_BYTE is an append and an evaluation, after which there is room for the next byte. -/
theorem rxByte_ok {b : Byte} (h : rxByte p b now s = .ok t) :
    ∃ s1, append b now s = .ok s1 ∧ t = (evaluate p now s1).2 ∧ t.cursor < capacity := by
  unfold rxByte at h
  split at h
  · cases h
  · next s1 h1 =>
    obtain ⟨hc, -, buf, hs1⟩ := append_ok h1
    have hlt : (evaluate p now s1).2.cursor < capacity :=
      evaluate_lt_capacity (by rw [hs1]; exact hc)
    rw [overflowCheck_of_lt hlt] at h
    cases h
    exact ⟨s1, h1, rfl, hlt⟩

/-- RX_BYTE completes where the buffer has room. -/
theorem rxByte_of_lt {b : Byte} (hc : s.cursor < capacity) :
    ∃ s1, append b now s = .ok s1 ∧ rxByte p b now s = .ok (evaluate p now s1).2 := by
  have h1 := append_of_lt (b := b) (now := now) hc
  refine ⟨_, h1, ?_⟩
  unfold rxByte
  rw [h1]
  exact congrArg _ (overflowCheck_of_lt (evaluate_lt_capacity (show s.cursor + 1 ≤ capacity from hc)))

end Sys2Proof.Machine
end

