-- ==== Sys2Proof/Laws/Exec.lean ====
section
/-! SUPPORT. What a step and the meanings answer, in terms of the shared operations. -/

namespace Sys2Proof.Machine

variable {s t : State} {p : Params} {now : Time}

/-! ### Outcomes -/

theorem ofRun_eq_next {r : Except Fault State} (h : ofRun r = .next t) : r = .ok t := by
  cases r with
  | ok a => cases h; rfl
  | error e => cases h

theorem execRxByteWith_eq_next {b : Byte} (h : execRxByteWith p b now s = .next t) :
    rxByte p b now (giveResult .nothing s) = .ok t := ofRun_eq_next h

/-- A step that goes on is an idle step or the execution of a decoded instruction. -/
theorem fetchAndRun_eq_next {T : CrcTable} {run : Instr → State → Host.Outcome State Fault Refusal}
    (h : fetchAndRun T run s = .next t) :
    (s.stream = [] ∧ s.port = .operation ∧ t = s) ∨
    ∃ i rest, decode s.port s.stream T = .ok (i, rest) ∧ run i (s.fetched rest) = .next t := by
  unfold fetchAndRun at h
  split at h
  · next hi => cases h; exact .inl ⟨hi.1, hi.2, rfl⟩
  · split at h
    · next i rest hd => exact .inr ⟨i, rest, hd, h⟩
    · cases h

/-- `exec` and `step` are the instance with the parameters of Config. -/
theorem execWith_params (i : Instr) (s : State) : execWith Config.params i s = exec i s := by cases i <;> rfl

theorem stepWith_params (s : State) : stepWith Config.params s = step s := by
  unfold stepWith step
  rw [show execWith Config.params = exec from funext fun i => funext (execWith_params i)]

/-! ### Dispatch does not look at the buffer or the result -/

theorem dispatch_with (f : Frame) (s : State) (buf : Buffer) (cursor : Nat) (result : OpResult) (draws : Nat) :
    dispatch f now { s with buf := buf, cursor := cursor, result := result, draws := draws } =
      { dispatch f now s with buf := buf, cursor := cursor, result := result, draws := draws } := by
  unfold dispatch
  split
  · split
    · rfl
    · split
      · rfl
      · unfold runDecoder decodeBattery decodeGps decodeVario decodeBaro decodeAttitude decodeLinkStats
        split_ifs <;> (try split) <;> rfl
  · rfl

theorem frameFound_with (f : Frame) (s : State) (buf : Buffer) (cursor : Nat) (result : OpResult) (draws : Nat) :
    frameFound f now { s with buf := buf, cursor := cursor, result := result, draws := draws } =
      { frameFound f now s with buf := buf, cursor := cursor, result := result, draws := draws } :=
  dispatch_with f (emit f s) buf cursor result draws

/-- What a found frame adds to the trace: its event and at most one reason why it was ignored. -/
theorem frameFound_trace (f : Frame) (now : Time) (s : State) :
    ∃ why, (frameFound f now s).trace = s.trace ++ .event :: why ∧
      ∀ e ∈ why, e = .eAddr f.deviceAddr ∨ e = .eType f.type ∨ e = .eShort f.type f.payload.length := by
  rcases dispatch_cases f now (emit f s) with ⟨e, h, he⟩ | ⟨-, ⟨-, -, h⟩ | ⟨-, r, -, h⟩ | ⟨-, r, -, h⟩ | ⟨-, r, -, h⟩ |
    ⟨-, r, -, h⟩ | ⟨-, r, -, h⟩ | ⟨-, r, -, h⟩⟩
  · exact ⟨[e], by simp [frameFound, h], by simpa using he⟩
  all_goals exact ⟨[], by simp [frameFound, h], by simp⟩

/-! ### Inbound rows -/

/-- The row of a valid inbound frame hands over exactly that frame. -/
theorem execWith_inboundInstr {f : Frame} (hv : f.valid p.crcTable = true) (now : Time) (s : State) :
    execWith p (inboundInstr f now) s = runInbound f now s := by
  have hb : runInbound f now s = runInbound (Frame.build f.deviceAddr f.type f.payload p.crcTable) now s :=
    congrArg (runInbound · now s) (Frame.eq_build hv)
  rw [hb]
  unfold inboundInstr
  split
  · next ha =>
    rw [ha]
    split <;> [skip; split <;> [skip; split <;> [skip; split <;> [skip; split <;> [skip; split <;> [skip; split]]]]]]
    all_goals first
      | (rw [‹f.type = _›]; rfl)
      | rfl
  · rfl

theorem exec_inboundInstr {f : Frame} (hv : f.valid = true) (now : Time) (s : State) :
    exec (inboundInstr f now) s = runInbound f now s := by
  rw [← execWith_params]; exact execWith_inboundInstr hv now s

/-! ### The encoder's images -/

theorem channelsFrame_bytes {payload : List Byte} (T : CrcTable) (h : payload.length = 22) :
    (channelsFrame payload T).bytes = [0xEE, 0x18, 0x16] ++ payload ++ [crc8 (0x16 :: payload) T] := by
  simp +decide [channelsFrame, Frame.bytes, Frame.build, h, typeChannels]

theorem commandFrame_bytes (commandId value : Byte) (T : CrcTable) :
    (commandFrame commandId value T).bytes =
      [0xEE, 0x06, 0x2D, 0xEE, 0xEA, commandId, value, crc8 [0x2D, 0xEE, 0xEA, commandId, value] T] := rfl

end Sys2Proof.Machine
end

