-- ==== Sys2Proof/Laws/Packing.lean ====
section
/-! SUPPORT. The packed channels bit by bit: where PACK puts each channel bit and where UNPACK_CHANNELS takes it from. -/

namespace Sys2Proof

theorem getLsbD_packInto (P : BitVec 176) (i : Nat) (v : List (BitVec 11)) (k : Nat) (hk : k < 176) :
    (packInto P i v).getLsbD k =
      (P.getLsbD k || (decide (11 * i ≤ k) && (v.getD ((k - 11 * i) / 11) 0).getLsbD ((k - 11 * i) % 11))) := by
  induction v generalizing P i with
  | nil => simp [packInto]
  | cons c v ih =>
    rw [packInto, ih]
    simp only [zext, BitVec.truncate_eq_setWidth, BitVec.getLsbD_or, BitVec.getLsbD_shiftLeft,
      BitVec.getLsbD_setWidth, hk, decide_true, Bool.true_and, Bool.or_assoc]
    by_cases h1 : k < 11 * i
    · have h2 : ¬ 11 * i ≤ k := by omega
      have h3 : ¬ 11 * (i + 1) ≤ k := by omega
      simp [h1, h2, h3]
    · have h2 : 11 * i ≤ k := by omega
      by_cases h3 : 11 * (i + 1) ≤ k
      · have h4 : (k - 11 * i) / 11 = (k - 11 * (i + 1)) / 11 + 1 := by omega
        have h5 : (k - 11 * i) % 11 = (k - 11 * (i + 1)) % 11 := by omega
        have h6 : c.getLsbD (k - 11 * i) = false := BitVec.getLsbD_of_ge c _ (by omega)
        simp [h2, h3, h4, h5, h6]
      · have h4 : (k - 11 * i) / 11 = 0 := by omega
        have h5 : (k - 11 * i) % 11 = k - 11 * i := by omega
        have h6 : k - 11 * i < 176 := by omega
        simp [h1, h2, h3, h4, h5, h6]

@[simp] theorem length_pack (v : List (BitVec 11)) : (pack v).length = 22 := by simp [pack]

/-- Stream bit 8·j + b of the payload PACK gives is bit (8·j + b) mod 11 of channel (8·j + b) / 11 (30_encoding.md
R89). -/
theorem getLsbD_pack (v : List (BitVec 11)) {j b : Nat} (hj : j < 22) (hb : b < 8) :
    ((pack v).getD j 0).getLsbD b = (v.getD ((8 * j + b) / 11) 0).getLsbD ((8 * j + b) % 11) := by
  have hk : 8 * j + b < 176 := by omega
  have h := getLsbD_packInto 0 0 v (8 * j + b) hk
  have h1 : (pack v).getD j 0 = (packInto 0 0 v).extractLsb' (8 * j) 8 := by
    simp [pack, List.getD_eq_getElem?_getD, hj]
  rw [h1, BitVec.getLsbD_extractLsb', h]
  simp [hb]

theorem getLsbD_unpackFrom (P : BitVec 176) (j : Nat) (q : List Byte) (hP : ∀ k, 8 * j ≤ k → P.getLsbD k = false)
    (k : Nat) (hk : k < 176) :
    (unpackFrom P j q).getLsbD k =
      (P.getLsbD k || (decide (8 * j ≤ k) && (q.getD ((k - 8 * j) / 8) 0).getLsbD ((k - 8 * j) % 8))) := by
  induction q generalizing P j with
  | nil => simp [unpackFrom]
  | cons b q ih =>
    have hor : P + (zext 176 b <<< (8 * j)) = P ||| (zext 176 b <<< (8 * j)) := by
      refine BitVec.add_eq_or_of_and_eq_zero _ _ ?_
      refine BitVec.eq_of_getLsbD_eq fun i hi => ?_
      by_cases h : 8 * j ≤ i
      · simp [hP i h]
      · have : i < 8 * j := by omega
        simp [this]
    rw [unpackFrom, hor, ih _ _ ?_]
    · simp only [zext, BitVec.truncate_eq_setWidth, BitVec.getLsbD_or, BitVec.getLsbD_shiftLeft,
        BitVec.getLsbD_setWidth, hk, decide_true, Bool.true_and, Bool.or_assoc]
      by_cases h1 : k < 8 * j
      · have h2 : ¬ 8 * j ≤ k := by omega
        have h3 : ¬ 8 * (j + 1) ≤ k := by omega
        simp [h1, h2, h3]
      · have h2 : 8 * j ≤ k := by omega
        by_cases h3 : 8 * (j + 1) ≤ k
        · have h4 : (k - 8 * j) / 8 = (k - 8 * (j + 1)) / 8 + 1 := by omega
          have h5 : (k - 8 * j) % 8 = (k - 8 * (j + 1)) % 8 := by omega
          have h6 : b.getLsbD (k - 8 * j) = false := BitVec.getLsbD_of_ge b _ (by omega)
          simp [h2, h3, h4, h5, h6]
        · have h4 : (k - 8 * j) / 8 = 0 := by omega
          have h5 : (k - 8 * j) % 8 = k - 8 * j := by omega
          have h6 : k - 8 * j < 176 := by omega
          simp [h1, h2, h3, h4, h5, h6]
    · intro i hi
      have h1 : P.getLsbD i = false := hP i (by omega)
      have h2 : b.getLsbD (i - 8 * j) = false := BitVec.getLsbD_of_ge b _ (by omega)
      simp [zext, h1, h2]

@[simp] theorem length_unpack (q : List Byte) : (unpack q).length = 16 := by simp [unpack]

/-- Bit b of the i-th unpacked channel is stream bit 11·i + b of the payload, and bits 11..15 are 0 (43_dispatcher.md
R198). -/
theorem getLsbD_unpack (q : List Byte) {i : Nat} (hi : i < 16) (b : Nat) :
    ((unpack q).getD i 0).getLsbD b =
      (decide (b < 11) && (q.getD ((11 * i + b) / 8) 0).getLsbD ((11 * i + b) % 8)) := by
  have h1 : (unpack q).getD i 0 = zext 16 ((unpackFrom 0 0 q).extractLsb' (11 * i) 11) := by
    simp [unpack, List.getD_eq_getElem?_getD, hi]
  rw [h1]
  simp only [zext, BitVec.truncate_eq_setWidth, BitVec.getLsbD_setWidth, BitVec.getLsbD_extractLsb']
  by_cases hb : b < 11
  · have h2 := getLsbD_unpackFrom 0 0 q (fun k _ => by simp) (11 * i + b) (by omega)
    have h3 : b < 16 := by omega
    simp only [hb, h3, decide_true, Bool.true_and]
    rw [h2]
    simp
  · simp [hb]

end Sys2Proof
end

