-- ==== Sys2Proof/Laws/PerInstr.lean ====
section
/-! SUPPORT. Statements made per instruction. -/

namespace Sys2Proof.Laws.EncodedLength

/-- How many bytes spell the instruction: the byte counts of 30_encoding.md R101 and, for a frame, two more than its
`frame_size` (R80). -/
def count : Instr → Nat
  | .reset => 1
  | .rxByte _ _ => 6
  | .poll _ => 5
  | .encChannels _ => 33
  | .encCommand _ _ => 3
  | .crc8 data => 2 + data.length
  | .unpackChannels _ => 23
  | .reserved07 => 1
  | .reserved08 _ => 1
  | .reserved10 _ => 1
  | .reserved20 _ => 1
  | .reserved40 _ => 1
  | .reserved80 _ => 1
  | .frameChannelsOut _ => 26
  | .frameCommandOut _ _ => 8
  | .frameChannelsIn payload _ => payload.length + 4
  | .frameBattery payload _ => payload.length + 4
  | .frameGps payload _ => payload.length + 4
  | .frameVario payload _ => payload.length + 4
  | .frameBaro payload _ => payload.length + 4
  | .frameAttitude payload _ => payload.length + 4
  | .frameLinkStats payload _ => payload.length + 4
  | .frameOtherIn _ _ payload _ => payload.length + 4

/-- A well-formed instruction is spelled by as many bytes as the spec counts. -/
def Statement (i : Instr) : Prop := i.wellFormed = true → (encode i).length = count i

theorem reset : Statement .reset := fun _ => rfl
theorem rxByte (b : Byte) (now : Time) : Statement (.rxByte b now) := fun _ => rfl
theorem poll (now : Time) : Statement (.poll now) := fun _ => rfl
theorem encChannels (ch : List Half) : Statement (.encChannels ch) := fun h => by
  have hl : ch.length = 16 := by simpa [Instr.wellFormed] using h
  simp only [encode, count, List.length_cons, length_flatMap_beBytes16, hl]
theorem encCommand (commandId value : Byte) : Statement (.encCommand commandId value) := fun _ => rfl
theorem crc8 (data : List Byte) : Statement (.crc8 data) := fun _ => by simp [encode, count]; omega
theorem unpackChannels (payload : List Byte) : Statement (.unpackChannels payload) := fun h => by
  have hl : payload.length = 22 := by simpa [Instr.wellFormed] using h
  simp [encode, count, hl]
theorem reserved07 : Statement .reserved07 := fun _ => rfl
theorem reserved08 (low : BitVec 3) : Statement (.reserved08 low) := fun _ => rfl
theorem reserved10 (low : BitVec 4) : Statement (.reserved10 low) := fun _ => rfl
theorem reserved20 (low : BitVec 5) : Statement (.reserved20 low) := fun _ => rfl
theorem reserved40 (low : BitVec 6) : Statement (.reserved40 low) := fun _ => rfl
theorem reserved80 (low : BitVec 7) : Statement (.reserved80 low) := fun _ => rfl
theorem frameChannelsOut (payload : List Byte) : Statement (.frameChannelsOut payload) := fun h => by
  have hl : payload.length = 22 := by simpa [Instr.wellFormed] using h
  simp [encode, count, Frame.length_bytes, channelsFrame, Frame.build, hl]
theorem frameCommandOut (commandId value : Byte) : Statement (.frameCommandOut commandId value) := fun _ => rfl
theorem frameChannelsIn (payload : List Byte) (now : Time) : Statement (.frameChannelsIn payload now) := fun _ =>
  Frame.length_bytes _
theorem frameBattery (payload : List Byte) (now : Time) : Statement (.frameBattery payload now) := fun _ =>
  Frame.length_bytes _
theorem frameGps (payload : List Byte) (now : Time) : Statement (.frameGps payload now) := fun _ =>
  Frame.length_bytes _
theorem frameVario (payload : List Byte) (now : Time) : Statement (.frameVario payload now) := fun _ =>
  Frame.length_bytes _
theorem frameBaro (payload : List Byte) (now : Time) : Statement (.frameBaro payload now) := fun _ =>
  Frame.length_bytes _
theorem frameAttitude (payload : List Byte) (now : Time) : Statement (.frameAttitude payload now) := fun _ =>
  Frame.length_bytes _
theorem frameLinkStats (payload : List Byte) (now : Time) : Statement (.frameLinkStats payload now) := fun _ =>
  Frame.length_bytes _
theorem frameOtherIn (deviceAddr type : Byte) (payload : List Byte) (now : Time) :
    Statement (.frameOtherIn deviceAddr type payload now) := fun _ => Frame.length_bytes _

end Sys2Proof.Laws.EncodedLength
end

