-- ==== Sys2Proof/Machine/Views.lean ====
section
/-! DEFINITION. The views of 43_dispatcher.md R197: the physical readings of a record's raw wire integers, for the host
and for proofs. The engine computes none of them (R196; D20). The two's-complement readings of GPS position, attitude
and SNR are PRESUMED (D19; log 17). -/

namespace Sys2Proof.Machine

/-- Battery volts. -/
def Battery.volts (r : Battery) : Rat := r.voltage.toNat / 10

/-- Battery amperes. -/
def Battery.amps (r : Battery) : Rat := r.current.toNat / 10

/-- GPS latitude in degrees. -/
def Gps.latitudeDegrees (r : Gps) : Rat := signedW r.latitude / 10000000

/-- GPS longitude in degrees. -/
def Gps.longitudeDegrees (r : Gps) : Rat := signedW r.longitude / 10000000

/-- GPS ground speed in km/h. -/
def Gps.kmPerHour (r : Gps) : Rat := r.groundspeed.toNat / 10

/-- GPS heading in degrees. -/
def Gps.headingDegrees (r : Gps) : Rat := r.heading.toNat / 100

/-- GPS altitude in metres; may be negative. -/
def Gps.altitudeMetres (r : Gps) : Int := r.altitude.toNat - 1000

/-- Vario vertical speed in cm/s. -/
def Vario.cmPerSecond (r : Vario) : Int := signedW r.verticalSpeed

/-- The two readings of the barometric altitude. -/
inductive BaroAltitude where
  | decimetres (v : Int)
  | metres (v : Nat)
  deriving DecidableEq, Repr

/-- Barometric altitude: bit 15 tells which unit (R197; D30). -/
def Baro.altitudeReading (r : Baro) : BaroAltitude :=
  if r.altitude.getLsbD 15 then .metres (r.altitude.extractLsb' 0 15).toNat
  else .decimetres (r.altitude.toNat - 10000)

/-- Barometric vertical speed; the spec gives no unit. -/
def Baro.verticalSpeedReading (r : Baro) : Int := signedW r.verticalSpeed

/-- An attitude angle in radians, for a scale in units per radian (R197). DESIGN CHOICE: the spec gives the scale no type
and no range; here it is a natural number, and at scale 0 the angle is 0, because Lean's division by 0 is (log 17). -/
def radians (scale : Nat) (v : Half) : Rat := signedW v / scale

/-- Attitude pitch in radians, at the ATT_SCALE of an instance's parameters (D31). -/
def Attitude.pitchRadians (r : Attitude) (p : Params := Config.params) : Rat := radians p.attScale r.pitch

/-- Attitude roll in radians, at the ATT_SCALE of an instance's parameters (D31). -/
def Attitude.rollRadians (r : Attitude) (p : Params := Config.params) : Rat := radians p.attScale r.roll

/-- Attitude yaw in radians, at the ATT_SCALE of an instance's parameters (D31). -/
def Attitude.yawRadians (r : Attitude) (p : Params := Config.params) : Rat := radians p.attScale r.yaw

/-- Uplink SNR in dB. -/
def LinkStats.uplinkSnrDb (r : LinkStats) : Int := signedW r.uplinkSnr

/-- Downlink SNR in dB. -/
def LinkStats.downlinkSnrDb (r : LinkStats) : Int := signedW r.downlinkSnr

end Sys2Proof.Machine
end

