-- ==== Sys2Proof/Tests/Slice0.lean ====
section
/-! SUPPORT. The model's own tests. Expected values are the vectors of spec/95_test_vectors.md (named V-…), or written
out from the encodings of spec/30_encoding.md. The last part shows, for each statement with hypotheses, a state and
operands that meet them. -/

open Sys2Proof Sys2Proof.Machine Sys2Proof.Spec

namespace Sys2Proof.Tests

set_option Elab.async false -- each kernel evaluation waits for the one before it, so no threads pile up

/-- The next state of an outcome. -/
def after : Host.Outcome State Fault Refusal → Option State
  | .next s => some s
  | .fault _ => none
  | .refused _ => none

/-- The refusal of an outcome. -/
def refusal : Host.Outcome State Fault Refusal → Option Refusal
  | .next _ => none
  | .fault _ => none
  | .refused r => some r

/-- The reset state with these bytes buffered. -/
def holding (bytes : List Byte) : State :=
  { State.reset with buf := Buffer.holding 0 bytes, cursor := bytes.length }

/-- The parameters of 95_test_vectors.md. -/
def vectorParams : Params := { Config.params with reprocCapPred := 3, rxTimeout := 100, failsafe := 300 }

/-- The same with REPROC_CAP = 1 (V-TO-4, V-TO-6). -/
def capOneParams : Params := { vectorParams with reprocCapPred := 0 }

/-- An instance whose CRC_TABLE is the identity: its checksum is the exclusive or of the bytes. -/
def xorParams : Params := { vectorParams with crcTable := Vector.ofFn fun i => BitVec.ofFin i }

/-- The battery frame of V-DS-1. -/
def batteryFrame : List Byte := [0xEA, 0x0A, 0x08, 0x00, 0xA8, 0x00, 0x32, 0x00, 0x04, 0xD2, 0x4B, 0xC3]

/-- The payload of V-PK-3, 16 times 992. -/
def centred : List Byte :=
  [0xE0, 0x03, 0x1F, 0xF8, 0xC0, 0x07, 0x3E, 0xF0, 0x81, 0x0F, 0x7C] ++
  [0xE0, 0x03, 0x1F, 0xF8, 0xC0, 0x07, 0x3E, 0xF0, 0x81, 0x0F, 0x7C]

/-- The channels of V-PK-8 and V-EC-9. -/
def mixed : List Half := [172, 992, 1811, 0, 2047, 1024, 1, 2046, 3, 4, 5, 6, 7, 8, 9, 10]

/-- The payload of V-PK-8 and V-EC-9. -/
def mixedPacked : List Byte :=
  [0xAC, 0x00, 0xDF, 0xC4, 0x01, 0xF0, 0x7F, 0x00, 0x06, 0xC0, 0xFF] ++
  [0x03, 0x20, 0x40, 0x01, 0x0C, 0x70, 0x00, 0x04, 0x24, 0x40, 0x01]

/-! ### WellFormed refuses what is ill formed -/

theorem test_wf_encChannels_fifteen : (Instr.encChannels (List.replicate 15 0)).wellFormed = false := by decide
theorem test_wf_encChannels_seventeen : (Instr.encChannels (List.replicate 17 0)).wellFormed = false := by decide
theorem test_wf_crc8_256 : (Instr.crc8 (List.replicate 256 0)).wellFormed = false := by decide +kernel
theorem test_wf_crc8_255 : (Instr.crc8 (List.replicate 255 0)).wellFormed = true := by decide +kernel
theorem test_wf_unpackChannels_21 : (Instr.unpackChannels (List.replicate 21 0)).wellFormed = false := by decide
theorem test_wf_frameChannelsOut_23 : (Instr.frameChannelsOut (List.replicate 23 0)).wellFormed = false := by decide
theorem test_wf_payload_63 : (Instr.frameChannelsIn (List.replicate 63 0) 0).wellFormed = false := by decide +kernel
theorem test_wf_battery_empty : (Instr.frameBattery [] 0).wellFormed = false := by decide
theorem test_wf_gps_empty : (Instr.frameGps [] 0).wellFormed = false := by decide
theorem test_wf_vario_empty : (Instr.frameVario [] 0).wellFormed = false := by decide
theorem test_wf_baro_empty : (Instr.frameBaro [] 0).wellFormed = false := by decide
theorem test_wf_attitude_empty : (Instr.frameAttitude [] 0).wellFormed = false := by decide
theorem test_wf_linkStats_empty : (Instr.frameLinkStats [] 0).wellFormed = false := by decide
theorem test_wf_other_empty : (Instr.frameOtherIn 0xEE 0x08 [] 0).wellFormed = false := by decide
theorem test_wf_other_hasOwnRow : (Instr.frameOtherIn 0xEA 0x08 [1] 0).wellFormed = false := by decide

/-! ### Words written out from 30_encoding.md R101, R102 and R80 -/

theorem test_decode_reset : decode .operation [0x00] = .ok (.reset, []) := by decide
theorem test_decode_rxByte :
    decode .operation [0x01, 0xEA, 0x00, 0x00, 0x01, 0x2C] = .ok (.rxByte 0xEA 300, []) := by decide
theorem test_decode_poll : decode .operation [0x02, 0xFF, 0xFF, 0xFF, 0x00] = .ok (.poll 0xFFFFFF00, []) := by decide
/-- V-EC-3: `03` and sixteen times `03 E0`. -/
theorem test_decode_encChannels :
    decode .operation (0x03 :: (List.replicate 16 [0x03, 0xE0]).flatten) =
      .ok (.encChannels (List.replicate 16 992), []) := by decide +kernel
theorem test_decode_encCommand : decode .operation [0x04, 0x01, 0x03] = .ok (.encCommand 0x01 0x03, []) := by decide
/-- V-CRC-7. -/
theorem test_decode_crc8 :
    decode .operation [0x05, 0x05, 0x2D, 0xEE, 0xEA, 0x01, 0x03] = .ok (.crc8 [0x2D, 0xEE, 0xEA, 0x01, 0x03], []) := by
  decide
theorem test_decode_unpackChannels :
    decode .operation (0x06 :: centred ++ [0x00]) = .ok (.unpackChannels centred, [0x00]) := by decide +kernel
theorem test_decode_reserved07 : decode .operation [0x07] = .ok (.reserved07, []) := by decide
theorem test_decode_reserved08 : decode .operation [0x0F] = .ok (.reserved08 7, []) := by decide
theorem test_decode_reserved10 : decode .operation [0x10] = .ok (.reserved10 0, []) := by decide
theorem test_decode_reserved20 : decode .operation [0x3F] = .ok (.reserved20 31, []) := by decide
theorem test_decode_reserved40 : decode .operation [0x40] = .ok (.reserved40 0, []) := by decide
theorem test_decode_reserved80 : decode .operation [0xFF] = .ok (.reserved80 127, []) := by decide
/-- V-EC-3. -/
theorem test_decode_frameChannelsOut :
    decode .outbound ([0xEE, 0x18, 0x16] ++ centred ++ [0xAD]) = .ok (.frameChannelsOut centred, []) := by
  decide +kernel
/-- V-CM-1. -/
theorem test_decode_frameCommandOut :
    decode .outbound [0xEE, 0x06, 0x2D, 0xEE, 0xEA, 0x01, 0x03, 0x9A] = .ok (.frameCommandOut 0x01 0x03, []) := by
  decide +kernel
/-- The frame of W-6. -/
theorem test_decode_frameChannelsIn :
    decode (.inbound 7) ([0xEA, 0x18, 0x16] ++ centred ++ [0xAD]) = .ok (.frameChannelsIn centred 7, []) := by
  decide +kernel
/-- V-DS-1. -/
theorem test_decode_frameBattery :
    decode (.inbound 5) batteryFrame =
      .ok (.frameBattery [0x00, 0xA8, 0x00, 0x32, 0x00, 0x04, 0xD2, 0x4B] 5, []) := by decide +kernel
/-- V-DS-2. -/
theorem test_decode_frameGps :
    decode (.inbound 5) ([0xEA, 0x11, 0x02, 0x1D, 0xCD, 0x65, 0x00, 0xFF, 0x67, 0x69] ++
      [0x80, 0x01, 0xF4, 0x46, 0x50, 0x04, 0x4C, 0x0C, 0xD3]) =
      .ok (.frameGps [0x1D, 0xCD, 0x65, 0x00, 0xFF, 0x67, 0x69, 0x80, 0x01, 0xF4, 0x46, 0x50, 0x04, 0x4C, 0x0C] 5, [])
    := by decide +kernel
/-- V-DS-3. -/
theorem test_decode_frameVario :
    decode (.inbound 5) [0xEA, 0x04, 0x07, 0xFF, 0x9C, 0x31] = .ok (.frameVario [0xFF, 0x9C] 5, []) := by
  decide +kernel
/-- V-DS-4. -/
theorem test_decode_frameBaro :
    decode (.inbound 5) [0xEA, 0x06, 0x09, 0x2A, 0xF8, 0x00, 0x64, 0xDF] =
      .ok (.frameBaro [0x2A, 0xF8, 0x00, 0x64] 5, []) := by decide +kernel
/-- V-DS-6. -/
theorem test_decode_frameAttitude :
    decode (.inbound 5) [0xEA, 0x08, 0x1E, 0x03, 0xE8, 0xFC, 0x18, 0x7A, 0xB7, 0xC4] =
      .ok (.frameAttitude [0x03, 0xE8, 0xFC, 0x18, 0x7A, 0xB7] 5, []) := by decide +kernel
/-- V-DS-7. -/
theorem test_decode_frameLinkStats :
    decode (.inbound 5) [0xEA, 0x0C, 0x14, 0x28, 0x2D, 0x64, 0x0A, 0x01, 0x04, 0x03, 0x32, 0x63, 0xF6, 0xB1] =
      .ok (.frameLinkStats [0x28, 0x2D, 0x64, 0x0A, 0x01, 0x04, 0x03, 0x32, 0x63, 0xF6] 5, []) := by decide +kernel
/-- V-DS-8 and V-DS-10: another address, and an inbound 0x2D. -/
theorem test_decode_frameOtherIn :
    decode (.inbound 5) (0xEE :: batteryFrame.tail) =
      .ok (.frameOtherIn 0xEE 0x08 [0x00, 0xA8, 0x00, 0x32, 0x00, 0x04, 0xD2, 0x4B] 5, []) ∧
    decode (.inbound 5) [0xEA, 0x06, 0x2D, 0xEA, 0xEE, 0x01, 0x03, 0x28] =
      .ok (.frameOtherIn 0xEA 0x2D [0xEA, 0xEE, 0x01, 0x03] 5, []) := by decide +kernel

/-- V-RF-2: CRC8 declares three bytes, two are supplied. -/
theorem test_decode_crc8_mismatch : decode .operation [0x05, 0x03, 0xAA, 0xBB] = .error (.crc8LengthMismatch 3 2) := by
  decide
/-- A wrong checksum byte and a bad size byte are named (30_encoding.md R82, R84). -/
theorem test_decode_frame_errors :
    decode (.inbound 0) [0xEA, 0x04, 0x07, 0xFF, 0x9C, 0xCE] = .error (.badFrameChecksum 0x31 0xCE) ∧
    decode (.inbound 0) [0xEA, 0x02, 0x07, 0x31] = .error (.badFrameSize 0x02) := by decide +kernel

/-- What the host asks of the table's words: a row by its opcode byte, and a frame row by its match key. -/
theorem test_decodeTableWord :
    decodeTableWord 8 0x00 = some .reset ∧ decodeTableWord 48 0x2C010000EA01 = some (.rxByte 0xEA 300) ∧
    decodeTableWord 16 0xEA07 = some (.frameVario [0, 0] 0) ∧
    decodeTableWord 16 0xEE2D = some (.frameCommandOut 0 0) := by decide +kernel
/-- The very next step after withFetchWord runs the row's instruction: V-CM-7 and RESERVED. -/
theorem test_withFetchWord :
    ((after (step (State.reset.withFetchWord 24 0x000004))).map State.result =
      some (.frame [0xEE, 0x06, 0x2D, 0xEE, 0xEA, 0x00, 0x00, 0x3B])) ∧
    refusal (step (State.reset.withFetchWord 8 0x40)) = some (.reservedOpcode 0x40) := by decide +kernel

/-! ### One step of each instruction -/

/-- V-RS-1: RESET from a state with eight bytes buffered and the link up. -/
theorem test_reset :
    (after (exec .reset { holding batteryFrame with linkIsUp := true, battery := ⟨168, 50, 1234, 75⟩ })).map
      (fun t => (t.held, t.cursor, t.linkIsUp, t.battery)) = some ([], 0, false, ⟨0, 0, 0, 0⟩) := by decide

/-- V-DS-1 by its last byte: one event, the record written, the buffer empty. -/
theorem test_rxByte_completes_frame :
    (after (execRxByteWith vectorParams 0xC3 5 (holding batteryFrame.dropLast))).map
      (fun t => (t.battery, t.events.map Frame.bytes, t.held, t.cursor)) =
      some (⟨168, 50, 1234, 75⟩, [batteryFrame], [], 0) := by decide +kernel
/-- V-RX-5, the last byte: a flipped bit, four one-byte discards, then the cap. -/
theorem test_rxByte_bad_checksum :
    (after (execRxByteWith vectorParams 0xC3 0
      (holding [0xEA, 0x0A, 0x08, 0x00, 0xA8, 0x00, 0x33, 0x00, 0x04, 0xD2, 0x4B]))).map
      (fun t => (t.trace.length, t.trace[0]?, t.held, t.events)) =
      some (5, some (.eCrc 0xEA 0x75 0xC3), [0xA8, 0x00, 0x33, 0x00, 0x04, 0xD2, 0x4B, 0xC3], []) := by decide +kernel

/-- V-TO-2 and V-TO-3: the receive timeout is strict, and one POLL empties the buffer. V-TO-6: the flush evaluates again
after a capped evaluation, so the frame behind `1A` is found. -/
theorem test_poll_flush :
    (after (execPollWith vectorParams 110 { holding [0xEA, 0x0A, 0x08, 0x00, 0xA8] with lastReceiveTime := 10 })).map
      (fun t => (t.held, t.trace)) = some ([0xEA, 0x0A, 0x08, 0x00, 0xA8], []) ∧
    (after (execPollWith vectorParams 111 { holding [0xEA, 0x0A, 0x08, 0x00, 0xA8] with lastReceiveTime := 10 })).map
      (fun t => (t.held, t.trace, t.lastReceiveTime)) =
      some ([], [.eTmo [0xEA, 0x0A, 0x08, 0x00, 0xA8], .flushDiscard, .flushDiscard, .eLen 0x08 0x00, .eLen 0x00 0xA8,
        .flushDiscard], 10) ∧
    (after (execPollWith capOneParams 101 (holding (0x1A :: [0xEA, 0x18, 0x16] ++ centred ++ [0xAD])))).map
      (fun t => (t.cursor, t.events.map Frame.bytes, t.trace, t.linkIsUp, t.lastChannelsFrameTime)) =
      some (0, [[0xEA, 0x18, 0x16] ++ centred ++ [0xAD]],
        [.eTmo (0x1A :: [0xEA, 0x18, 0x16] ++ centred ++ [0xAD]), .eLen 0x1A 0xEA, .eCap 26, .event], true, 101) := by
  decide +kernel
/-- V-LK-3, V-LK-4, V-LK-6, V-LK-7: the fail-safe is strict and modular. -/
theorem test_poll_failsafe :
    ([(0, 300), (0, 301), (0xFFFFFF00, 0x10), (0xFFFFFF00, 0x30)].map fun (seen, now) =>
      (after (execPollWith vectorParams now { State.reset with linkIsUp := true, lastChannelsFrameTime := seen })).map
        State.linkIsUp) = [some true, some false, some true, some false] := by decide +kernel

/-- V-EC-9. -/
theorem test_encChannels_mixed :
    (after (exec (.encChannels mixed) State.reset)).map State.result =
      some (.frame ([0xEE, 0x18, 0x16] ++ mixedPacked ++ [0x42])) := by decide +kernel
/-- V-EC-4: -1 is masked to 2047, not clamped. -/
theorem test_encChannels_masks :
    (after (exec (.encChannels (0xFFFF :: List.replicate 15 0)) State.reset)).map State.result =
      some (.frame ([0xEE, 0x18, 0x16, 0xFF, 0x07] ++ List.replicate 20 0x00 ++ [0x03])) := by decide +kernel
/-- V-CM-4. -/
theorem test_encCommand :
    (after (exec (.encCommand 0xFF 0xFF) State.reset)).map State.result =
      some (.frame [0xEE, 0x06, 0x2D, 0xEE, 0xEA, 0xFF, 0xFF, 0xBA]) := by decide +kernel
/-- V-CRC-1, V-CRC-7, V-CRC-9, and V-CRC-5, the published check value (general knowledge, D1). -/
theorem test_crc8 :
    ([[], [0x2D, 0xEE, 0xEA, 0x01, 0x03], [0x2D, 0xEE, 0xEA, 0x01, 0x03, 0x9A],
      [0x31, 0x32, 0x33, 0x34, 0x35, 0x36, 0x37, 0x38, 0x39]].map fun data =>
      (after (exec (.crc8 data) State.reset)).map State.result) =
      [some (.byte 0x00), some (.byte 0x9A), some (.byte 0x00), some (.byte 0xBC)] := by decide +kernel
/-- An instance with another CRC_TABLE (40_checksum.md R122): 01 ⊕ 02 ⊕ 04 = 07. -/
theorem test_crc8_other_table :
    (after (execWith xorParams (.crc8 [0x01, 0x02, 0x04]) State.reset)).map State.result = some (.byte 0x07) := by
  decide +kernel
/-- V-PK-8. -/
theorem test_unpackChannels_mixed :
    (after (exec (.unpackChannels mixedPacked) State.reset)).map State.result = some (.channels mixed) := by
  decide +kernel
/-- V-PK-12. -/
theorem test_unpackChannels_order :
    (after (exec (.unpackChannels (0xAA :: 0x55 :: List.replicate 20 0)) State.reset)).map State.result =
      some (.channels (1450 :: 10 :: List.replicate 14 0)) := by decide +kernel
/-- V-RF-1 and 30_encoding.md R102: each reserved row is refused with its opcode byte. -/
theorem test_reserved :
    ([.reserved07, .reserved08 0, .reserved10 15, .reserved20 1, .reserved40 63, .reserved80 0].map fun i =>
      refusal (exec i State.reset)) =
      [some (.reservedOpcode 0x07), some (.reservedOpcode 0x08), some (.reservedOpcode 0x1F),
        some (.reservedOpcode 0x21), some (.reservedOpcode 0x7F), some (.reservedOpcode 0x80)] := by decide
/-- V-EC-3 as an outbound row. -/
theorem test_frameChannelsOut :
    (after (exec (.frameChannelsOut centred) State.reset)).map State.result =
      some (.frame ([0xEE, 0x18, 0x16] ++ centred ++ [0xAD])) := by decide +kernel
/-- V-CM-5 as an outbound row. -/
theorem test_frameCommandOut :
    (after (exec (.frameCommandOut 0x02 0x01) State.reset)).map State.result =
      some (.frame [0xEE, 0x06, 0x2D, 0xEE, 0xEA, 0x02, 0x01, 0xF8]) := by decide +kernel
/-- The frame of W-6 marks the link alive. -/
theorem test_frameChannelsIn :
    (after (exec (.frameChannelsIn centred 200) State.reset)).map
      (fun t => (t.linkIsUp, t.lastChannelsFrameTime, t.trace)) = some (true, 200, [.event]) := by decide +kernel
/-- V-DS-13: 21 bytes are too short. -/
theorem test_frameChannelsIn_short :
    (after (exec (.frameChannelsIn (List.replicate 21 0) 5) State.reset)).map (fun t => (t.linkIsUp, t.trace)) =
      some (false, [.event, .eShort 0x16 21]) := by decide +kernel
/-- V-DS-14: the second frame overwrites the whole record. -/
theorem test_frameBattery :
    (after (exec (.frameBattery [0x00, 0x96, 0x00, 0x00, 0x00, 0x00, 0x00, 0x00] 6)
      { State.reset with battery := ⟨168, 50, 1234, 75⟩ })).map State.battery = some ⟨150, 0, 0, 0⟩ := by decide +kernel
/-- V-DS-2. -/
theorem test_frameGps :
    (after (exec (.frameGps [0x1D, 0xCD, 0x65, 0x00, 0xFF, 0x67, 0x69, 0x80, 0x01, 0xF4, 0x46, 0x50, 0x04, 0x4C, 0x0C] 5)
      State.reset)).map State.gps = some ⟨0x1DCD6500, 0xFF676980, 500, 18000, 1100, 12⟩ := by decide +kernel
/-- V-DS-12: a longer payload is decoded from its first bytes. -/
theorem test_frameVario_long :
    (after (exec (.frameVario [0x00, 0x05, 0xAA] 5) State.reset)).map State.vario = some ⟨5⟩ := by decide +kernel
/-- V-DS-5. -/
theorem test_frameBaro :
    (after (exec (.frameBaro [0x80, 0x64, 0xFF, 0x38] 5) State.reset)).map State.baro = some ⟨32868, 65336⟩ := by
  decide +kernel
/-- V-DS-6. -/
theorem test_frameAttitude :
    (after (exec (.frameAttitude [0x03, 0xE8, 0xFC, 0x18, 0x7A, 0xB7] 5) State.reset)).map State.attitude =
      some ⟨1000, 64536, 31415⟩ := by decide +kernel
/-- V-DS-7. -/
theorem test_frameLinkStats :
    (after (exec (.frameLinkStats [0x28, 0x2D, 0x64, 0x0A, 0x01, 0x04, 0x03, 0x32, 0x63, 0xF6] 5) State.reset)).map
      (fun t => (t.linkStats, t.linkIsUp)) = some (⟨40, 45, 100, 10, 1, 4, 3, 50, 99, 246⟩, false) := by decide +kernel
/-- V-DS-8 and V-DS-9. -/
theorem test_frameOtherIn :
    (after (exec (.frameOtherIn 0xEE 0x08 [0x00, 0xA8, 0x00, 0x32, 0x00, 0x04, 0xD2, 0x4B] 5) State.reset)).map
      (fun t => (t.battery, t.trace)) = some (⟨0, 0, 0, 0⟩, [.event, .eAddr 0xEE]) ∧
    (after (exec (.frameOtherIn 0xEA 0x7F [0x01, 0x02, 0x03] 5) State.reset)).map State.trace =
      some [.event, .eType 0x7F] := by decide +kernel

/-! ### Views, V-VW-1 to V-VW-10 -/

theorem test_views_battery :
    Battery.volts ⟨168, 50, 1234, 75⟩ = 168 / 10 ∧ Battery.amps ⟨168, 50, 1234, 75⟩ = 5 := by decide +kernel
theorem test_views_gps_position :
    Gps.latitudeDegrees ⟨0x1DCD6500, 0xFF676980, 500, 18000, 1100, 12⟩ = 50 ∧
    Gps.longitudeDegrees ⟨0x1DCD6500, 0xFF676980, 500, 18000, 1100, 12⟩ = -1 := by decide +kernel
theorem test_views_gps_motion :
    Gps.kmPerHour ⟨0, 0, 500, 18000, 1100, 12⟩ = 50 ∧ Gps.headingDegrees ⟨0, 0, 500, 18000, 1100, 12⟩ = 180 ∧
    Gps.altitudeMetres ⟨0, 0, 500, 18000, 1100, 12⟩ = 100 ∧ Gps.altitudeMetres ⟨0, 0, 0, 0, 0, 0⟩ = -1000 := by
  decide +kernel
theorem test_views_vario : Vario.cmPerSecond ⟨0xFF9C⟩ = -100 := by decide
theorem test_views_baro :
    Baro.altitudeReading ⟨11000, 100⟩ = .decimetres 1000 ∧ Baro.altitudeReading ⟨0x8064, 0xFF38⟩ = .metres 100 ∧
    Baro.verticalSpeedReading ⟨0x8064, 0xFF38⟩ = -200 := by decide
theorem test_views_attitude :
    radians 10000 1000 = 1 / 10 ∧ radians 10000 0xFC18 = -1 / 10 ∧ radians 10000 31415 = 31415 / 10000 := by
  decide +kernel
theorem test_views_linkStats :
    LinkStats.downlinkSnrDb ⟨40, 45, 100, 0x0A, 1, 4, 3, 50, 99, 0xF6⟩ = -10 ∧
    LinkStats.uplinkSnrDb ⟨40, 45, 100, 0x0A, 1, 4, 3, 50, 99, 0xF6⟩ = 10 := by decide

/-! ### The statements' hypotheses can be met, each at the ends of its ranges -/

/-- The vario frame of V-DS-3. -/
def varioFrame : Frame := ⟨0xEA, 0x04, 0x07, [0xFF, 0x9C], 0x31⟩

/-- The shortest valid frame, V-RX-13. -/
def shortestFrame : Frame := ⟨0xEA, 0x03, 0x07, [0x05], 0x1A⟩

/-- The longest valid frame, V-RX-14. -/
def longestFrame : Frame :=
  ⟨0xEA, 0x40, 0x7F, (List.range 62).map (BitVec.ofNat 8), 0xE7⟩

/-- The reset state with bytes of the host's stream to come. -/
def invoking (bytes : List Byte) : State := { State.reset with stream := bytes }

theorem test_witness_DecodeOfEncodeIsTheInstruction :
    (Instr.frameOtherIn 0xEE 0x16 [1] 0).wellFormed = true ∧
    (Instr.frameOtherIn 0xEA 0x2D (List.replicate 62 0) 0).wellFormed = true ∧ (Instr.crc8 []).wellFormed = true := by
  decide +kernel
theorem test_witness_DecodedInstructionIsWellFormedAndReencodes :
    decode .operation [0x05, 0x00, 0x07] = .ok (.crc8 [], [0x07]) := by decide
theorem test_witness_StepRunsTheDecodedInstruction :
    decode (invoking [0x00, 0x02]).port (invoking [0x00, 0x02]).stream = .ok (.reset, [0x02]) := by decide
theorem test_witness_StepWithNothingInvokedHoldsTheState :
    (holding [0xEA]).stream = [] ∧ (holding [0xEA]).port = .operation := by decide
theorem test_witness_StepRefusesUnsuppliedOperands_crc8 :
    (invoking [0x05, 0x01]).port = .operation ∧ (invoking [0x05, 0x01]).stream = 0x05 :: 0x01 :: [] ∧
    ([] : List Byte).length < (0x01 : Byte).toNat := by decide
theorem test_witness_StepRefusesUnsuppliedOperands_others :
    ∀ row ∈ ([(0x01, 5), (0x02, 4), (0x03, 32), (0x04, 2), (0x05, 1), (0x06, 22)] : List (Byte × Nat)),
      (invoking (row.1 :: List.replicate (row.2 - 1) 0)).port = .operation ∧
      (invoking (row.1 :: List.replicate (row.2 - 1) 0)).stream = row.1 :: List.replicate (row.2 - 1) 0 ∧
      (List.replicate (row.2 - 1) (0 : Byte)).length < row.2 := by decide
theorem test_witness_ReservedOpcodesAreRefused :
    7 ≤ (0x07 : Byte).toNat ∧ (invoking [0x07]).port = .operation ∧ (invoking [0x07]).stream = 0x07 :: [] ∧
    7 ≤ (0xFF : Byte).toNat ∧ (invoking [0xFF]).stream = 0xFF :: [] := by decide
theorem test_witness_FrameIsValidExactlyWhenResidueIsZero :
    (3 ≤ shortestFrame.frameSize.toNat ∧ shortestFrame.frameSize.toNat ≤ 64 ∧
      shortestFrame.payload.length + 2 = shortestFrame.frameSize.toNat) ∧
    (3 ≤ longestFrame.frameSize.toNat ∧ longestFrame.frameSize.toNat ≤ 64 ∧
      longestFrame.payload.length + 2 = longestFrame.frameSize.toNat) := by decide +kernel
theorem test_witness_SingleBitFlipChangesTheChecksum : 0 < 8 ∧ 7 < 8 := by decide
theorem test_witness_EncChannelsAnswersThePackedFrame : mixed.length = 16 ∧ 15 < 16 ∧ 10 < 11 := by decide
theorem test_witness_EncChannelsTruncatesEachValueToElevenBits :
    (0xFFFF :: 2048 :: List.replicate 14 (0 : Half)).length = 16 ∧ ((0xFFFF : Half).toInt % 2048).toNat = 2047 ∧
    ((2048 : Half).toInt % 2048).toNat = 0 ∧ 15 < 16 ∧ 10 < 11 := by decide
theorem test_witness_OutboundFrameRowsAnswerTheEncodersImages : centred.length = 22 := by decide
theorem test_witness_UnpackChannelsAnswersSixteenElevenBitValues : centred.length = 22 ∧ 0 < 16 ∧ 0 < 11 := by decide
theorem test_witness_PackAndUnpackAreInverse : mixed.length = 16 ∧ mixedPacked.length = 22 := by decide
theorem test_witness_EncodedFramesReadBackAreIgnoredEvents :
    (Instr.encCommand 0x01 0x03).wellFormed = true ∧ (Instr.encChannels mixed).wellFormed = true ∧
    (after (exec (.encCommand 0x01 0x03) State.reset)).map State.result =
      some (.frame [0xEE, 0x06, 0x2D, 0xEE, 0xEA, 0x01, 0x03, 0x9A]) ∧
    (after (exec (.encChannels mixed) State.reset)).map State.result =
      some (.frame ([0xEE, 0x18, 0x16] ++ mixedPacked ++ [0x42])) ∧ Holds State.reset [] := by decide +kernel
theorem test_witness_BatteryFrameWritesItsRecord :
    batteryRecord [0x00, 0xA8, 0x00, 0x32, 0x00, 0x04, 0xD2, 0x4B] = some ⟨168, 50, 1234, 75⟩ ∧
    batteryRecord [0x00, 0xA8, 0x00, 0x32, 0x00, 0x04, 0xD2, 0x4B, 0xFF] = some ⟨168, 50, 1234, 75⟩ := by decide
theorem test_witness_GpsFrameWritesItsRecord :
    gpsRecord [0x1D, 0xCD, 0x65, 0x00, 0xFF, 0x67, 0x69, 0x80, 0x01, 0xF4, 0x46, 0x50, 0x04, 0x4C, 0x0C] =
      some ⟨0x1DCD6500, 0xFF676980, 500, 18000, 1100, 12⟩ := by decide
theorem test_witness_VarioFrameWritesItsRecord : varioRecord [0xFF, 0x9C] = some ⟨0xFF9C⟩ := by decide
theorem test_witness_BaroFrameWritesItsRecord : baroRecord [0x2A, 0xF8, 0x00, 0x64] = some ⟨11000, 100⟩ := by decide
theorem test_witness_AttitudeFrameWritesItsRecord :
    attitudeRecord [0x03, 0xE8, 0xFC, 0x18, 0x7A, 0xB7] = some ⟨1000, 64536, 31415⟩ := by decide
theorem test_witness_LinkStatsFrameWritesItsRecord :
    linkStatsRecord [0x28, 0x2D, 0x64, 0x0A, 0x01, 0x04, 0x03, 0x32, 0x63, 0xF6] =
      some ⟨40, 45, 100, 10, 1, 4, 3, 50, 99, 246⟩ := by decide
theorem test_witness_InboundFrameRowsEmitTheirFrame :
    (Instr.frameGps [1] 9).wellFormed = true ∧ (Instr.frameGps [1] 9).port = .inbound 9 := by decide
theorem test_witness_ChannelsFrameMarksTheLinkAlive :
    (22 ≤ centred.length ∧ centred.length ≤ 62) ∧
    (22 ≤ (List.replicate 62 (0 : Byte)).length ∧ (List.replicate 62 (0 : Byte)).length ≤ 62) := by decide +kernel
theorem test_witness_OtherInboundFrameIsOnlyAnEvent :
    (Instr.frameOtherIn 0xEA 0x2D [1] 0).wellFormed = true ∧ (Instr.frameOtherIn 0xEE 0x16 [1] 0).wellFormed = true :=
  by decide
theorem test_witness_ShortPayloadIsOnlyAnEvent :
    ∀ n ∈ [22, 8, 15, 2, 4, 6, 10], 1 ≤ (List.replicate (n - 1) (0 : Byte)).length ∧
      (List.replicate (n - 1) (0 : Byte)).length < n := by decide
theorem test_witness_RxByteCompletesAndIsBounded :
    Invariant State.reset ∧ Invariant (holding (List.replicate 66 0x40)) := by decide +kernel
theorem test_witness_LastByteOfAFrameRunsItsRow :
    (varioFrame.valid = true ∧ Holds (holding varioFrame.bytes.dropLast) varioFrame.bytes.dropLast) ∧
    (longestFrame.valid = true ∧ Holds (holding longestFrame.bytes.dropLast) longestFrame.bytes.dropLast) := by
  decide +kernel
theorem test_witness_BadSizeByteDropsExactlyOneByte_arrives :
    (∀ size ∈ ([0, 2, 65, 255] : List Byte), size.toNat < 3 ∨ 64 < size.toNat) ∧ Holds (holding [0xEA]) [0xEA] := by
  decide +kernel
theorem test_witness_BadSizeByteDropsExactlyOneByte_buffered :
    Holds (holding (0xEA :: 0x02 :: batteryFrame)) (0xEA :: 0x02 :: batteryFrame) ∧ 0 ≠ vectorParams.reprocCap := by
  decide +kernel
theorem test_witness_IncompleteCandidateWaits :
    (Holds (holding [0xEA]) [0xEA] ∧ ([0xEA] ++ [0x03] : List Byte) = 0xEA :: 0x03 :: [] ∧ 3 ≤ (0x03 : Byte).toNat ∧
      (0x03 : Byte).toNat ≤ 64 ∧ ([] : List Byte).length < (0x03 : Byte).toNat) ∧
    (Holds (holding (0xEA :: 0x40 :: List.replicate 62 0)) (0xEA :: 0x40 :: List.replicate 62 0) ∧
      (0xEA :: 0x40 :: List.replicate 62 0) ++ [0] = 0xEA :: 0x40 :: List.replicate 63 (0 : Byte) ∧
      3 ≤ (0x40 : Byte).toNat ∧ (0x40 : Byte).toNat ≤ 64 ∧
      (List.replicate 63 (0 : Byte)).length < (0x40 : Byte).toNat) := by decide +kernel
theorem test_witness_RxByteRefinesTheByteSequenceLoop :
    Holds (holding (List.replicate 66 0x40)) (List.replicate 66 0x40) ∧ (List.replicate 66 (0x40 : Byte)).length < 67 :=
  by decide +kernel
theorem test_witness_ValidFramesBackToBackAreEachFoundOnce :
    (∀ f ∈ [shortestFrame, varioFrame, longestFrame], f.valid = true) ∧ Holds State.reset [] := by decide +kernel
theorem test_witness_EveryNewEventIsAValidFrame :
    (after (step { invoking varioFrame.bytes with port := .inbound 5 })).map State.events = some [varioFrame] := by
  decide +kernel
theorem test_witness_OverflowResetNeverFires : Invariant (holding (List.replicate 66 0x40)) := by decide +kernel
theorem test_witness_PollWithoutReceiveTimeoutOnlyChecksTheFailsafe :
    State.reset.cursor = 0 ∧ ((holding [0xEA]).cursor ≠ 0 ∧
      elapsedMs 0 (holding [0xEA]).lastReceiveTime ≤ Config.rxTimeout.toNat) := by
  have h : elapsedMs 0 (holding [0xEA]).lastReceiveTime = 0 := by decide
  rw [h]
  exact ⟨rfl, by decide, Nat.zero_le _⟩
theorem test_witness_PollAfterReceiveTimeoutEmptiesTheBuffer :
    Invariant (holding [0xEA]) ∧ vectorParams.rxTimeout.toNat < elapsedMs 101 (holding [0xEA]).lastReceiveTime := by
  decide
theorem test_witness_FlushFindsEveryBufferedFrame :
    (Holds (holding (0x1A :: varioFrame.bytes)) (0x1A :: varioFrame.bytes) ∧
      capOneParams.rxTimeout.toNat < elapsedMs 101 (holding (0x1A :: varioFrame.bytes)).lastReceiveTime) ∧
    drain (tableCrc capOneParams.crcTable) 7 (0x1A :: varioFrame.bytes) = [varioFrame] ∧ Holds State.reset [] := by
  decide +kernel
theorem test_witness_PollIsIdempotent : (after (exec (.poll 1000) State.reset)).isSome = true := rfl
theorem test_witness_LinkStateMovesOnlyByChannelsFramesAndFailsafe :
    (Instr.frameChannelsIn centred 5).wellFormed = true ∧
    (after (exec (.frameChannelsIn centred 5) State.reset)).map
      (fun t => (t.linkIsUp, t.events.map fun f => (f.valid, f.deviceAddr, f.type, f.payload.length))) =
      some (true, [(true, 0xEA, 0x16, 22)]) := by decide +kernel
theorem test_witness_LinkStateMovesOnlyByChannelsFramesAndFailsafe_down :
    (Instr.poll 301).wellFormed = true ∧
    (after (execWith vectorParams (.poll 301) { State.reset with linkIsUp := true })).map
      (fun t => (t.linkIsUp, t.events)) = some (false, []) ∧
    (after (execWith vectorParams (.poll 300) { State.reset with linkIsUp := true })).map
      (fun t => (t.linkIsUp, t.events)) = some (true, []) := by decide +kernel
theorem test_witness_TimestampsAreWrittenOnlyByTheirRules :
    (Instr.frameChannelsIn centred 5).wellFormed = true ∧ Instr.frameChannelsIn centred 5 ≠ .reset ∧
    (after (exec (.frameChannelsIn centred 5) State.reset)).isSome = true := by decide +kernel
theorem test_witness_RecordsAreWrittenWholesaleByTheirFrames :
    Instr.frameVario [0xFF, 0x9C] 5 ≠ .reset ∧
    (after (exec (.frameVario [0xFF, 0x9C] 5) State.reset)).map State.vario = some ⟨0xFF9C⟩ := by decide +kernel
theorem test_witness_NoRuleReadsTheOutputs :
    (holding [0xEA]).cursor ≤ 67 ∧ SameEngine (holding [0xEA]) { holding [0xEA] with
      buf := Buffer.holding 9 [0xEA], draws := 10, events := [varioFrame], trace := [.event], result := .byte 1 } ∧
    (after (exec (.frameVario [0xFF, 0x9C] 5) State.reset)).isSome = true := by decide +kernel
theorem test_witness_OutputsOnlyGrow :
    (after (exec .reset State.reset)).isSome = true ∧
    (after (exec (.frameVario [0xFF, 0x9C] 5) State.reset)).isSome = true := by decide +kernel
theorem test_witness_EveryOperationCompletes :
    Invariant (holding (List.replicate 66 0x40)) ∧ notReserved (.poll 0) ∧ notReserved (.rxByte 0x40 0) :=
  ⟨by decide +kernel, trivial, trivial⟩
theorem test_witness_StepStopsOnlyOnHostActionsOutsideTheSpec :
    Invariant (invoking [0x07]) ∧ refusal (step (invoking [0x07])) = some (.reservedOpcode 0x07) ∧
    Invariant (invoking [0x04, 0x01]) ∧
    refusal (step (invoking [0x04, 0x01])) = some (.undecodable (.truncatedOperation 0x04)) := by decide +kernel
theorem test_witness_StepKeepsTheInvariant :
    Invariant { invoking varioFrame.bytes with port := .inbound 5 } ∧
    (after (step { invoking varioFrame.bytes with port := .inbound 5 })).isSome = true := by decide +kernel
theorem test_witness_AppendAndShiftActOnTheHeldBytes :
    (Holds State.reset [] ∧ ([] : List Byte).length < 67) ∧
    (Holds (holding (List.replicate 66 0x40)) (List.replicate 66 0x40) ∧ (List.replicate 66 (0x40 : Byte)).length < 67) ∧
    Holds (holding (List.replicate 67 0x40)) (List.replicate 67 0x40) ∧ 1 ≤ 67 ∧
    67 ≤ (List.replicate 67 (0x40 : Byte)).length := by decide +kernel
theorem test_witness_EveryInstanceCompletesAndKeepsTheInvariant :
    Invariant (holding (List.replicate 66 0x40)) xorParams.crcTable ∧ (Instr.crc8 []).wellFormed = true ∧
    (after (stepWith xorParams (invoking [0x05, 0x00]))).isSome = true := by decide +kernel
/-- A frame valid in the instance of `xorParams`: 07 ⊕ 05 = 02. -/
theorem test_witness_EveryUnitUsesTheInstancesTable :
    mixed.length = 16 ∧ Holds (holding [0xEA, 0x03, 0x07, 0x05]) (Frame.bytes ⟨0xEA, 0x03, 0x07, [0x05], 0x02⟩).dropLast ∧
    (after (execWith xorParams (.rxByte 0x02 0) (holding [0xEA, 0x03, 0x07, 0x05]))).map State.events =
      some [⟨0xEA, 0x03, 0x07, [0x05], 0x02⟩] := by decide +kernel

end Sys2Proof.Tests
end

section
/-! The reserved opcodes: a RESERVED row's opcode byte as a number, and what the row of a reserved opcode answers
(30_encoding.md R102; 60_exceptions.md R243). After them the command frame (30_encoding.md R98). -/

namespace Sys2Proof

/-- A row's fixed bit in front of its operand bits counts 2^n. -/
theorem one_append_eq_ofNat {k n : Nat} (hk : 0 < k) (low : BitVec n) :
    1#k ++ low = BitVec.ofNat (k + n) (2 ^ n + low.toNat) := by
  have hone : (1#k).toNat = 1 := Nat.mod_eq_of_lt (Nat.one_lt_two_pow hk.ne')
  have hval : (1#k ++ low).toNat = 2 ^ n + low.toNat := by
    rw [BitVec.toNat_append, hone, ← Nat.shiftLeft_add_eq_or_of_lt low.isLt, Nat.one_shiftLeft]
  rw [← hval, BitVec.ofNat_toNat, BitVec.setWidth_eq]

/-- A word in 2^n..2^(n+1)-1 is a single one bit in front of its low `n` bits. -/
theorem one_append_extractLsb' {k n : Nat} (hk : 0 < k) (v : BitVec (k + n)) (hlo : 2 ^ n ≤ v.toNat)
    (hhi : v.toNat < 2 ^ (n + 1)) : 1#k ++ v.extractLsb' 0 n = v := by
  have hmod : 2 ^ n + v.toNat % 2 ^ n = v.toNat := by
    rw [Nat.mod_eq_sub_mod hlo, Nat.mod_eq_of_lt (by omega)]
    omega
  rw [one_append_eq_ofNat hk, BitVec.extractLsb'_toNat, Nat.shiftRight_zero, hmod, BitVec.ofNat_toNat,
    BitVec.setWidth_eq]

end Sys2Proof

namespace Sys2Proof.Machine

theorem refuseReserved_of_eq {o opcode : Byte} (h : o = opcode) (s : State) :
    refuseReserved o s = .refused (.reservedOpcode opcode) := by
  rw [h]; rfl

/-- The row of a reserved opcode byte refuses with that byte. -/
theorem exec_decodeReserved {opcode : Byte} (h : 7 ≤ opcode.toNat) (s : State) :
    exec (decodeReserved opcode) s = .refused (.reservedOpcode opcode) := by
  have hlt := opcode.isLt
  unfold decodeReserved
  split_ifs with h08 h10 h20 h40 h80
  · exact refuseReserved_of_eq (BitVec.eq_of_toNat_eq (x := 0x07) (Nat.le_antisymm h (Nat.le_of_lt_succ h08))) s
  · exact refuseReserved_of_eq (one_append_extractLsb' (k := 5) (n := 3) (by decide) opcode (by omega) (by omega)) s
  · exact refuseReserved_of_eq (one_append_extractLsb' (k := 4) (n := 4) (by decide) opcode (by omega) (by omega)) s
  · exact refuseReserved_of_eq (one_append_extractLsb' (k := 3) (n := 5) (by decide) opcode (by omega) (by omega)) s
  · exact refuseReserved_of_eq (one_append_extractLsb' (k := 2) (n := 6) (by decide) opcode (by omega) (by omega)) s
  · exact refuseReserved_of_eq (one_append_extractLsb' (k := 1) (n := 7) (by decide) opcode (by omega) (by omega)) s

/-- Where the front of the stream spells an instruction, the step is that instruction's. -/
theorem step_of_decode {s : State} {i : Instr} {rest : List Byte} (h : decode s.port s.stream = .ok (i, rest)) :
    step s = exec i (s.fetched rest) := by
  have hbusy : ¬ (s.stream = [] ∧ s.port = .operation) := by
    rintro ⟨hs, hp⟩
    rw [hs, hp] at h
    cases h
  rw [step, fetchAndRun, if_neg hbusy, params_crcTable, h]

/-- Settles O7: each row's refused byte is its fixed bit in front of its operand, and from the stream the decoder reads
a reserved byte as the row that refuses that byte. -/
theorem reservedOpcodesAreRefused : Obligations.ReservedOpcodesAreRefused := by
  refine ⟨fun _ => rfl, fun low => refuseReserved_of_eq (one_append_eq_ofNat (k := 5) (by decide) low),
    fun low => refuseReserved_of_eq (one_append_eq_ofNat (k := 4) (by decide) low),
    fun low => refuseReserved_of_eq (one_append_eq_ofNat (k := 3) (by decide) low),
    fun low => refuseReserved_of_eq (one_append_eq_ofNat (k := 2) (by decide) low),
    fun low => refuseReserved_of_eq (one_append_eq_ofNat (k := 1) (by decide) low), ?_⟩
  intro s opcode rest h hport hstream
  have hd : decode s.port s.stream = .ok (decodeReserved opcode, rest) := by
    rw [hport, hstream]
    exact decodeOperation_reserved opcode h rest
  rw [step_of_decode hd, exec_decodeReserved h]

/-- Settles O14: the answer is the command frame's image. -/
theorem encCommandAnswersTheEightByteFrame : Obligations.EncCommandAnswersTheEightByteFrame := by
  intro commandId value s
  exact congrArg (fun bytes => answer (.frame bytes) s) (commandFrame_bytes commandId value crcTable)

end Sys2Proof.Machine
end

section
/-! The size byte: one pass of the evaluation over a bad one (42_reassembler.md R152), which instructions a port
carries, and the frames a step can add to the event output (42_reassembler.md R160). -/

namespace Sys2Proof

theorem sizeOk_eq_false {size : Byte} (h : size.toNat < 3 ∨ 64 < size.toNat) : sizeOk size = false := by
  rw [← Bool.not_eq_true, sizeOk_iff]
  omega

/-! ### The instructions of the operation port -/

variable {i : Instr} {bytes rest : List Byte}

theorem decodeRxByte_port (h : decodeRxByte bytes = .ok (i, rest)) : i.port = .operation := by
  unfold decodeRxByte at h
  split at h <;> cases h
  rfl

theorem decodePoll_port (h : decodePoll bytes = .ok (i, rest)) : i.port = .operation := by
  unfold decodePoll at h
  split at h <;> cases h
  rfl

theorem decodeEncChannels_port (h : decodeEncChannels bytes = .ok (i, rest)) : i.port = .operation := by
  unfold decodeEncChannels at h
  split at h <;> cases h
  rfl

theorem decodeEncCommand_port (h : decodeEncCommand bytes = .ok (i, rest)) : i.port = .operation := by
  unfold decodeEncCommand at h
  split at h <;> cases h
  rfl

theorem decodeCrc8_port (h : decodeCrc8 bytes = .ok (i, rest)) : i.port = .operation := by
  cases bytes with
  | nil => cases h
  | cons n bytes =>
    rw [decodeCrc8] at h
    split at h <;> cases h
    rfl

theorem decodeUnpackChannels_port (h : decodeUnpackChannels bytes = .ok (i, rest)) : i.port = .operation := by
  unfold decodeUnpackChannels at h
  split at h <;> cases h
  rfl

theorem decodeReserved_port (opcode : Byte) : (decodeReserved opcode).port = .operation := by
  unfold decodeReserved
  split_ifs <;> rfl

/-- What the operation stream spells is an operation. -/
theorem decodeOperation_port (h : decodeOperation bytes = .ok (i, rest)) : i.port = .operation := by
  cases bytes with
  | nil => cases h
  | cons opcode bytes =>
    rw [decodeOperation] at h
    split_ifs at h
    · cases h; rfl
    · exact decodeRxByte_port h
    · exact decodePoll_port h
    · exact decodeEncChannels_port h
    · exact decodeEncCommand_port h
    · exact decodeCrc8_port h
    · exact decodeUnpackChannels_port h
    · cases h; exact decodeReserved_port opcode

/-- What the decoder reads is the row of a valid inbound frame, or comes by another port. -/
theorem decode_cases {T : CrcTable} {port : Port} (h : decode port bytes T = .ok (i, rest)) :
    (∃ f now, f.valid T = true ∧ i = inboundInstr f now) ∨ i.port = .operation ∨ i.port = .outbound := by
  cases port with
  | operation => exact .inr (.inl (decodeOperation_port h))
  | inbound now =>
    rw [decode] at h
    split at h
    · next f _ hf => cases h; exact .inl ⟨f, now, (decodeFrame_eq_ok hf).1, rfl⟩
    · cases h
  | outbound =>
    rw [decode] at h
    split at h
    · next f _ hf =>
      split at h
      · next hi => cases h; exact .inr (.inr (outboundInstr_encode (decodeFrame_eq_ok hf).1 hi).2.1)
      · cases h
    · cases h

end Sys2Proof

namespace Sys2Proof.Machine

variable {p : Params} {now : Time} {s t : State} {i : Instr}

/-! ### A bad size byte -/

/-- The state after the action on a bad size byte: its record, and the first byte dropped. -/
def dropBadSize (first size : Byte) (s : State) : State := shift 1 (record (.eLen first size) s)

theorem holds_dropBadSize {first size : Byte} {more : List Byte} (h : Holds s (first :: size :: more)) :
    Holds (dropBadSize first size s) (size :: more) :=
  holds_shift (s := record (.eLen first size) s) (holds_congr h rfl rfl) 1

/-- Beside the buffer, only the trace and the count of draws change. -/
theorem dropBadSize_frame {first size : Byte} {more : List Byte} (h : Holds s (first :: size :: more)) :
    ∃ buf tr draws, dropBadSize first size s =
      { s with buf := buf, cursor := more.length + 1, trace := tr, draws := draws } := by
  have hc : (dropBadSize first size s).cursor = more.length + 1 := (holds_dropBadSize h).1
  refine ⟨(dropBadSize first size s).buf, (dropBadSize first size s).trace, (dropBadSize first size s).draws, ?_⟩
  rw [← hc]
  rfl

/-- A pass that meets a bad size byte below the cap is the action on it. -/
theorem evaluateLoop_badSize {first size : Byte} {more : List Byte} {bound actions : Nat}
    (h : Holds s (first :: size :: more)) (hs : sizeOk size = false) (ha : actions ≠ p.reprocCap) :
    evaluateLoop p now (bound + 1) actions s = evaluateLoop p now bound (actions + 1) (dropBadSize first size s) := by
  have hc : ¬ s.cursor < 2 := by rw [h.1]; simp
  rw [evaluateLoop, if_neg hc, if_neg ha, front_of_badLength h hs]
  rfl

theorem evaluateLoop_of_cursor_lt {bound actions : Nat} (h : s.cursor < 2) :
    evaluateLoop p now bound actions s = (.done, s) := by
  cases bound with
  | zero => rfl
  | succ bound => rw [evaluateLoop, if_pos h]

/-- A bad size byte behind a single byte drops that byte, and the evaluation is over. -/
theorem evaluate_badSize_pair {first size : Byte} (h : Holds s [first, size]) (hs : sizeOk size = false) :
    evaluate p now s = (.done, dropBadSize first size s) := by
  have hcap : 0 ≠ p.reprocCap := (Nat.succ_ne_zero _).symm
  have hc : (dropBadSize first size s).cursor < 2 := by rw [(holds_dropBadSize h).1]; exact Nat.one_lt_two
  rw [evaluate, h.1]
  exact (evaluateLoop_badSize h hs hcap).trans (evaluateLoop_of_cursor_lt hc)

/-- RX_BYTE of a bad size byte behind a single byte: the byte is appended and the one before it dropped. -/
theorem rxByte_badSize {first size : Byte} (h : Holds s [first]) (hs : sizeOk size = false) :
    ∃ s1, append size now s = .ok s1 ∧ Holds s1 [first, size] ∧
      rxByte p size now s = .ok (dropBadSize first size s1) := by
  obtain ⟨s1, happ, hrx⟩ := rxByte_of_lt (p := p) (b := size) (now := now) (s := s) (by
    rw [h.1]; exact Nat.one_lt_succ_succ _)
  have h1 : Holds s1 [first, size] := holds_append h happ
  exact ⟨s1, happ, h1, by rw [hrx, evaluate_badSize_pair h1 hs]⟩

/-! ### The frames added to the event output -/

/-- Every frame event of `t` is one of `s` or a valid frame (42_reassembler.md R160 (c)). -/
abbrev NewEventsValid (T : CrcTable) (s t : State) : Prop := ∀ f ∈ t.events, f ∈ s.events ∨ f.valid T = true

theorem newEventsValid_of_events_eq {T : CrcTable} (h : t.events = s.events) : NewEventsValid T s t :=
  fun _ hf => .inl (h ▸ hf)

theorem newEventsValid_frameFound {T : CrcTable} {u : State} {f : Frame} (h : NewEventsValid T s u)
    (hf : f.valid T = true) : NewEventsValid T s (frameFound f now u) := by
  intro g hg
  rw [frameFound_events, List.mem_append, List.mem_singleton] at hg
  rcases hg with hg | rfl
  · exact h g hg
  · exact .inr hf

theorem newEventsValid_action : KeptByActions p now (NewEventsValid p.crcTable s) := by
  intro u u' hu _ hact
  rcases act_cases hact with ⟨e, rfl, -⟩ | ⟨f, -, hf, -, rfl⟩
  · exact hu
  · exact newEventsValid_frameFound hu hf

theorem newEventsValid_record {T : CrcTable} : KeptByRecords (NewEventsValid T s) := fun _ _ _ h => h

theorem flushOne_events (s : State) : (flushOne s).events = s.events := by
  unfold flushOne
  split <;> rfl

theorem failsafeCheck_events (p : Params) (now : Time) (s : State) : (failsafeCheck p now s).events = s.events := by
  obtain ⟨up, h⟩ := failsafeCheck_frame p now s
  rw [h]

theorem rxByte_newEventsValid {b : Byte} (h : rxByte p b now s = .ok t) : NewEventsValid p.crcTable s t := by
  obtain ⟨s1, happ, rfl, -⟩ := rxByte_ok h
  obtain ⟨-, -, buf, rfl⟩ := append_ok happ
  exact evaluate_keeps newEventsValid_action newEventsValid_record (newEventsValid_of_events_eq rfl)

theorem poll_newEventsValid (p : Params) (now : Time) (s : State) : NewEventsValid p.crcTable s (poll p now s) := by
  refine poll_keeps newEventsValid_action newEventsValid_record ?_ ?_ (newEventsValid_of_events_eq rfl)
  · intro u hu
    rwa [NewEventsValid, flushOne_events]
  · intro u hu
    rwa [NewEventsValid, failsafeCheck_events]

theorem answer_newEventsValid {T : CrcTable} {r : OpResult} (h : answer r s = .next t) : NewEventsValid T s t := by
  cases h
  exact newEventsValid_of_events_eq rfl

/-- An instruction of the operation or the outbound port adds only valid frames to the event output. -/
theorem execWith_newEventsValid (hport : i.port = .operation ∨ i.port = .outbound) (h : execWith p i s = .next t) :
    NewEventsValid p.crcTable s t := by
  cases i with
  | reset => cases h; exact fun _ hf => nomatch hf
  | rxByte b now => exact rxByte_newEventsValid (s := giveResult .nothing s) (execRxByteWith_eq_next h)
  | poll now => cases h; exact poll_newEventsValid p now (giveResult .nothing s)
  | encChannels | encCommand | crc8 | unpackChannels | frameChannelsOut | frameCommandOut =>
    exact answer_newEventsValid h
  | reserved07 | reserved08 | reserved10 | reserved20 | reserved40 | reserved80 => cases h
  | frameChannelsIn | frameBattery | frameGps | frameVario | frameBaro | frameAttitude | frameLinkStats
  | frameOtherIn => rcases hport with hport | hport <;> cases hport

/-- A step adds only valid frames to the event output, in any state and for any parameters. -/
theorem stepWith_newEventsValid (h : stepWith p s = .next t) : NewEventsValid p.crcTable s t := by
  rcases fetchAndRun_eq_next h with ⟨-, -, rfl⟩ | ⟨i, rest, hd, hrun⟩
  · exact newEventsValid_of_events_eq rfl
  · rcases decode_cases hd with ⟨f, now, hf, rfl⟩ | hport
    · rw [execWith_inboundInstr hf] at hrun
      cases hrun
      exact newEventsValid_frameFound (u := s.fetched rest) (newEventsValid_of_events_eq rfl) hf
    · exact execWith_newEventsValid (s := s.fetched rest) hport hrun

theorem step_newEventsValid (h : step s = .next t) : NewEventsValid crcTable s t :=
  stepWith_newEventsValid (p := Config.params) ((stepWith_params s).trans h)

/-- Settles O31: a pass over a bad size byte is one dropped byte, and a frame event that a step adds is a valid frame,
whose size byte is legal. -/
theorem badSizeByteDropsExactlyOneByte : Obligations.BadSizeByteDropsExactlyOneByte := by
  refine ⟨?arrives, ?buffered, ?events⟩
  case arrives =>
    intro first size now s hsize h
    obtain ⟨s1, happ, h1, hrx⟩ := rxByte_badSize (p := Config.params) (now := now)
      (holds_congr (t := giveResult .nothing s) h rfl rfl) (sizeOk_eq_false hsize)
    obtain ⟨buf, tr, draws, ht⟩ := dropBadSize_frame h1
    obtain ⟨-, -, buf1, rfl⟩ := append_ok happ
    exact ⟨_, congrArg ofRun hrx, holds_dropBadSize h1, buf, tr, .nothing, draws, ht⟩
  case buffered =>
    intro p now bound actions first size more s hsize h ha
    exact ⟨_, evaluateLoop_badSize h (sizeOk_eq_false hsize) ha, holds_dropBadSize h, dropBadSize_frame h⟩
  case events =>
    intro s t f hstep hf
    refine (step_newEventsValid hstep f hf).imp_right fun hv => ?_
    exact (sizeOk_iff _).1 ((Frame.valid_iff f _).1 hv).1

end Sys2Proof.Machine
end

section
/-! The dispatcher's decoders: the fields of a payload as numbers, the record each accepted frame writes, and what stays
as it was (43_dispatcher.md R180, R189 to R194). After them the unpack routine (43_dispatcher.md R198). -/

namespace Sys2Proof.Machine

open Sys2Proof.Spec

/-! ### Big-endian fields as numbers -/

theorem toNat_append_eq {m n : Nat} (x : BitVec m) (y : BitVec n) : (x ++ y).toNat = x.toNat * 2 ^ n + y.toNat := by
  rw [BitVec.toNat_append, ← Nat.shiftLeft_add_eq_or_of_lt y.isLt, Nat.shiftLeft_eq]

/-- The byte at the lower offset is the more significant (00_scope.md R17). -/
theorem append_eq_u16 (b1 b0 : Byte) : b1 ++ b0 = u16 b1 b0 := by
  rw [u16, ← toNat_append_eq, BitVec.ofNat_toNat, BitVec.setWidth_eq]

theorem append_eq_u24 (b2 b1 b0 : Byte) : b2 ++ b1 ++ b0 = u24 b2 b1 b0 := by
  have hval : b2.toNat * 2 ^ 16 + b1.toNat * 2 ^ 8 + b0.toNat = (b2 ++ b1 ++ b0).toNat := by
    rw [toNat_append_eq, toNat_append_eq]; omega
  rw [u24, hval, BitVec.ofNat_toNat, BitVec.setWidth_eq]

theorem append_eq_u32 (b3 b2 b1 b0 : Byte) : b3 ++ b2 ++ b1 ++ b0 = u32 b3 b2 b1 b0 := by
  have hval : b3.toNat * 2 ^ 24 + b2.toNat * 2 ^ 16 + b1.toNat * 2 ^ 8 + b0.toNat = (b3 ++ b2 ++ b1 ++ b0).toNat := by
    rw [toNat_append_eq, toNat_append_eq, toNat_append_eq]; omega
  rw [u32, hval, BitVec.ofNat_toNat, BitVec.setWidth_eq]

/-! ### The decoders' records -/

variable {p : List Byte}

theorem batteryOf_of_batteryRecord {r : Battery} (h : batteryRecord p = some r) : batteryOf p = some r := by
  unfold batteryRecord at h
  split at h
  · rw [← h, ← append_eq_u16, ← append_eq_u16, ← append_eq_u24]; rfl
  · cases h

theorem gpsOf_of_gpsRecord {r : Gps} (h : gpsRecord p = some r) : gpsOf p = some r := by
  unfold gpsRecord at h
  split at h
  · rw [← h, ← append_eq_u32, ← append_eq_u32, ← append_eq_u16, ← append_eq_u16, ← append_eq_u16]; rfl
  · cases h

theorem varioOf_of_varioRecord {r : Vario} (h : varioRecord p = some r) : varioOf p = some r := by
  unfold varioRecord at h
  split at h
  · rw [← h, ← append_eq_u16]; rfl
  · cases h

theorem baroOf_of_baroRecord {r : Baro} (h : baroRecord p = some r) : baroOf p = some r := by
  unfold baroRecord at h
  split at h
  · rw [← h, ← append_eq_u16, ← append_eq_u16]; rfl
  · cases h

theorem attitudeOf_of_attitudeRecord {r : Attitude} (h : attitudeRecord p = some r) : attitudeOf p = some r := by
  unfold attitudeRecord at h
  split at h
  · rw [← h, ← append_eq_u16, ← append_eq_u16, ← append_eq_u16]; rfl
  · cases h

theorem linkStatsOf_of_linkStatsRecord {r : LinkStats} (h : linkStatsRecord p = some r) : linkStatsOf p = some r := by
  unfold linkStatsRecord at h
  split at h
  · rw [← h]; rfl
  · cases h

/-! ### The decoder a type selects -/

theorem runDecoder_battery {r : Battery} (h : batteryOf p = some r) (now : Time) (s : State) :
    runDecoder typeBattery p now s = { s with battery := r } := by
  change decodeBattery p s = _
  rw [decodeBattery, h]

theorem runDecoder_gps {r : Gps} (h : gpsOf p = some r) (now : Time) (s : State) :
    runDecoder typeGps p now s = { s with gps := r } := by
  change decodeGps p s = _
  rw [decodeGps, h]

theorem runDecoder_vario {r : Vario} (h : varioOf p = some r) (now : Time) (s : State) :
    runDecoder typeVario p now s = { s with vario := r } := by
  change decodeVario p s = _
  rw [decodeVario, h]

theorem runDecoder_baro {r : Baro} (h : baroOf p = some r) (now : Time) (s : State) :
    runDecoder typeBaro p now s = { s with baro := r } := by
  change decodeBaro p s = _
  rw [decodeBaro, h]

theorem runDecoder_attitude {r : Attitude} (h : attitudeOf p = some r) (now : Time) (s : State) :
    runDecoder typeAttitude p now s = { s with attitude := r } := by
  change decodeAttitude p s = _
  rw [decodeAttitude, h]

theorem runDecoder_linkStats {r : LinkStats} (h : linkStatsOf p = some r) (now : Time) (s : State) :
    runDecoder typeLinkStats p now s = { s with linkStats := r } := by
  change decodeLinkStats p s = _
  rw [decodeLinkStats, h]

/-! ### The frame rows -/

/-- The row of an accepted frame, its payload long enough: the event is emitted, then the type's decoder runs
(43_dispatcher.md R180, R182). -/
theorem runInbound_build_of_le {type : Byte} {n : Nat} {T : CrcTable} (h : layoutLen type = some n)
    (hl : n ≤ p.length) (now : Time) (s : State) :
    runInbound (Frame.build addrRadio type p T) now s =
      .next (giveResult .nothing (runDecoder type p now (emit (Frame.build addrRadio type p T) s))) := by
  rw [runInbound, frameFound, dispatch_build_of_le h p hl]

/-- Settles O19: the payload holds the layout, so the battery decoder runs on the state with the event emitted. -/
theorem batteryFrameWritesItsRecord : Obligations.BatteryFrameWritesItsRecord := by
  intro p r now s h
  have hr := batteryOf_of_batteryRecord h
  have hrow := runInbound_build_of_le (T := crcTable) (type := typeBattery) rfl (length_of_batteryOf hr) now s
  rw [runDecoder_battery hr] at hrow
  exact ⟨_, _, _, hrow⟩

/-- Settles O20: the payload holds the layout, so the GPS decoder runs on the state with the event emitted. -/
theorem gpsFrameWritesItsRecord : Obligations.GpsFrameWritesItsRecord := by
  intro p r now s h
  have hr := gpsOf_of_gpsRecord h
  have hrow := runInbound_build_of_le (T := crcTable) (type := typeGps) rfl (length_of_gpsOf hr) now s
  rw [runDecoder_gps hr] at hrow
  exact ⟨_, _, _, hrow⟩

/-- Settles O21: the payload holds the layout, so the vario decoder runs on the state with the event emitted. -/
theorem varioFrameWritesItsRecord : Obligations.VarioFrameWritesItsRecord := by
  intro p r now s h
  have hr := varioOf_of_varioRecord h
  have hrow := runInbound_build_of_le (T := crcTable) (type := typeVario) rfl (length_of_varioOf hr) now s
  rw [runDecoder_vario hr] at hrow
  exact ⟨_, _, _, hrow⟩

/-- Settles O22: the payload holds the layout, so the barometric-altitude decoder runs on the state with the event
emitted. -/
theorem baroFrameWritesItsRecord : Obligations.BaroFrameWritesItsRecord := by
  intro p r now s h
  have hr := baroOf_of_baroRecord h
  have hrow := runInbound_build_of_le (T := crcTable) (type := typeBaro) rfl (length_of_baroOf hr) now s
  rw [runDecoder_baro hr] at hrow
  exact ⟨_, _, _, hrow⟩

/-- Settles O23: the payload holds the layout, so the attitude decoder runs on the state with the event emitted. -/
theorem attitudeFrameWritesItsRecord : Obligations.AttitudeFrameWritesItsRecord := by
  intro p r now s h
  have hr := attitudeOf_of_attitudeRecord h
  have hrow := runInbound_build_of_le (T := crcTable) (type := typeAttitude) rfl (length_of_attitudeOf hr) now s
  rw [runDecoder_attitude hr] at hrow
  exact ⟨_, _, _, hrow⟩

/-- Settles O24: the payload holds the layout, so the link-statistics decoder runs on the state with the event
emitted. -/
theorem linkStatsFrameWritesItsRecord : Obligations.LinkStatsFrameWritesItsRecord := by
  intro p r now s h
  have hr := linkStatsOf_of_linkStatsRecord h
  have hrow := runInbound_build_of_le (T := crcTable) (type := typeLinkStats) rfl (length_of_linkStatsOf hr) now s
  rw [runDecoder_linkStats hr] at hrow
  exact ⟨_, _, _, hrow⟩

/-! ### UNPACK_CHANNELS -/

/-- An unpacked value is eleven bits, zero-extended (43_dispatcher.md R198). -/
theorem toNat_lt_of_mem_unpack {c : Half} (h : c ∈ unpack p) : c.toNat < 2048 := by
  obtain ⟨i, -, rfl⟩ := List.mem_map.1 h
  rw [zext, BitVec.zeroExtend, BitVec.toNat_setWidth]
  exact Nat.lt_of_le_of_lt (Nat.mod_le _ _) (BitVec.isLt _)

/-- Settles O16: the answer is the unpack routine's list, whose bits `getLsbD_unpack` places. -/
theorem unpackChannelsAnswersSixteenElevenBitValues : Obligations.UnpackChannelsAnswersSixteenElevenBitValues := by
  intro payload s _
  refine ⟨unpack payload, length_unpack payload, rfl, fun c => toNat_lt_of_mem_unpack, fun i b hi hb => ?_⟩
  rw [getLsbD_unpack payload hi b, decide_eq_true hb, Bool.true_and]

end Sys2Proof.Machine
end

section
/-! Completion: which instructions answer a next state (60_exceptions.md R230). -/

namespace Sys2Proof.Machine

variable {s : State} {p : Params}

/-- RX_BYTE is the one meaning that can fault, and it does not where the buffer has room. -/
theorem execRxByteWith_of_lt (b : Byte) (now : Time) (h : s.cursor < capacity) :
    ∃ t, execRxByteWith p b now s = .next t := by
  obtain ⟨s1, -, hrx⟩ := rxByte_of_lt (p := p) (b := b) (now := now) (s := giveResult .nothing s) h
  exact ⟨_, congrArg ofRun hrx⟩

/-- In any instance, and where the buffer has room, each instruction but the reserved ones completes. -/
theorem execWith_completes (i : Instr) (h : s.cursor < capacity) (hi : Spec.notReserved i) :
    ∃ t, execWith p i s = .next t := by
  cases i with
  | rxByte b now => exact execRxByteWith_of_lt b now h
  | reserved07 | reserved08 | reserved10 | reserved20 | reserved40 | reserved80 => exact hi.elim
  | reset | poll | encChannels | encCommand | crc8 | unpackChannels | frameChannelsOut | frameCommandOut
  | frameChannelsIn | frameBattery | frameGps | frameVario | frameBaro | frameAttitude | frameLinkStats
  | frameOtherIn => exact ⟨_, rfl⟩

/-- Settles O47: the invariant leaves room in the buffer, and `exec` is the instance with the parameters of Config. -/
theorem everyOperationCompletes : Obligations.EveryOperationCompletes := by
  intro i s hs hi
  rw [← execWith_params]
  exact execWith_completes i hs.1 hi

end Sys2Proof.Machine
end

section
/-! Reading an encoding back, and what the decoder reads (30_encoding.md sections 1, 4, 5), for an instance's checksum
table. After them the steps that the stream decides (60_exceptions.md R242, R243). -/

namespace Sys2Proof

variable {T : CrcTable} {i : Instr} {bytes rest : List Byte}

/-! ### Operand bytes -/

theorem takeBytes_append_of_length {n : Nat} {l : List Byte} (h : l.length = n) (rest : List Byte) :
    takeBytes n (l ++ rest) = some (l, rest) := by
  rw [← h, takeBytes_append]

theorem takeBytes_of_lt {n : Nat} (h : bytes.length < n) : takeBytes n bytes = none :=
  if_neg (Nat.not_le.2 h)

theorem decodeEncChannels_flatMap {ch : List Half} (h : ch.length = 16) (rest : List Byte) :
    decodeEncChannels (ch.flatMap beBytes16 ++ rest) = .ok (.encChannels ch, rest) := by
  have hl : (ch.flatMap beBytes16).length = 32 := by rw [length_flatMap_beBytes16, h]
  rw [decodeEncChannels, takeBytes_append_of_length hl]
  simp only [halvesOf_flatMap]

theorem decodeCrc8_append {data : List Byte} (h : data.length ≤ 255) (rest : List Byte) :
    decodeCrc8 (BitVec.ofNat 8 data.length :: data ++ rest) = .ok (.crc8 data, rest) := by
  have hl : data.length = (BitVec.ofNat 8 data.length).toNat := by rw [BitVec.toNat_ofNat]; omega
  rw [List.cons_append, decodeCrc8, takeBytes_append_of_length hl]

theorem decodeUnpackChannels_append {payload : List Byte} (h : payload.length = 22) (rest : List Byte) :
    decodeUnpackChannels (payload ++ rest) = .ok (.unpackChannels payload, rest) := by
  rw [decodeUnpackChannels, takeBytes_append_of_length h]

/-! ### Reserved rows -/

theorem toNat_one_append {k n : Nat} (hk : 0 < k) (low : BitVec n) : (1#k ++ low).toNat = 2 ^ n + low.toNat := by
  rw [one_append_eq_ofNat hk, BitVec.toNat_ofNat, Nat.mod_eq_of_lt]
  have hpow : 2 ^ (n + 1) ≤ 2 ^ (k + n) := Nat.pow_le_pow_right (by decide) (by omega)
  have := low.isLt
  omega

theorem extractLsb'_one_append {k n : Nat} (low : BitVec n) : (1#k ++ low).extractLsb' 0 n = low := by
  refine BitVec.eq_of_getLsbD_eq fun i hi => ?_
  simp [BitVec.getLsbD_append, hi]

theorem decodeReserved_08 (low : BitVec 3) : decodeReserved (1#5 ++ low) = .reserved08 low := by
  have hval := toNat_one_append (k := 5) (by decide) low
  have hlt := low.isLt
  rw [decodeReserved, if_neg (by omega), if_pos (by omega), extractLsb'_one_append]

theorem decodeReserved_10 (low : BitVec 4) : decodeReserved (1#4 ++ low) = .reserved10 low := by
  have hval := toNat_one_append (k := 4) (by decide) low
  have hlt := low.isLt
  rw [decodeReserved, if_neg (by omega), if_neg (by omega), if_pos (by omega), extractLsb'_one_append]

theorem decodeReserved_20 (low : BitVec 5) : decodeReserved (1#3 ++ low) = .reserved20 low := by
  have hval := toNat_one_append (k := 3) (by decide) low
  have hlt := low.isLt
  rw [decodeReserved, if_neg (by omega), if_neg (by omega), if_neg (by omega), if_pos (by omega),
    extractLsb'_one_append]

theorem decodeReserved_40 (low : BitVec 6) : decodeReserved (1#2 ++ low) = .reserved40 low := by
  have hval := toNat_one_append (k := 2) (by decide) low
  have hlt := low.isLt
  rw [decodeReserved, if_neg (by omega), if_neg (by omega), if_neg (by omega), if_neg (by omega), if_pos (by omega),
    extractLsb'_one_append]

theorem decodeReserved_80 (low : BitVec 7) : decodeReserved (1#1 ++ low) = .reserved80 low := by
  have hval := toNat_one_append (k := 1) (by decide) low
  have hlt := low.isLt
  rw [decodeReserved, if_neg (by omega), if_neg (by omega), if_neg (by omega), if_neg (by omega), if_neg (by omega),
    extractLsb'_one_append]

/-- An opcode byte that is a row's fixed bit in front of its operand is read as that row. -/
theorem decodeOperation_of_row {k n : Nat} (hk : 0 < k) (hn : 3 ≤ n) {opcode : Byte} {low : BitVec n}
    (h : opcode.toNat = (1#k ++ low).toNat) (hrow : decodeReserved opcode = i) (rest : List Byte) :
    decodeOperation (opcode :: rest) = .ok (i, rest) := by
  have hpow : 2 ^ 3 ≤ 2 ^ n := Nat.pow_le_pow_right (by decide) hn
  have h7 : 7 ≤ opcode.toNat := by rw [h, toNat_one_append hk]; omega
  rw [decodeOperation_reserved opcode h7, hrow]

/-- A reserved opcode byte's row is well formed and spelled by that byte. -/
theorem decodeReserved_spells {opcode : Byte} (h : 7 ≤ opcode.toNat) :
    (decodeReserved opcode).wellFormed = true ∧ encode (decodeReserved opcode) T = [opcode] := by
  have hlt := opcode.isLt
  unfold decodeReserved
  split_ifs with h08 h10 h20 h40 h80
  · have : opcode = 0x07 := BitVec.eq_of_toNat_eq (Nat.le_antisymm (Nat.le_of_lt_succ h08) h)
    exact ⟨rfl, congrArg ([·]) this.symm⟩
  · exact ⟨rfl, congrArg ([·]) (one_append_extractLsb' (k := 5) (n := 3) (by decide) opcode (by omega) (by omega))⟩
  · exact ⟨rfl, congrArg ([·]) (one_append_extractLsb' (k := 4) (n := 4) (by decide) opcode (by omega) (by omega))⟩
  · exact ⟨rfl, congrArg ([·]) (one_append_extractLsb' (k := 3) (n := 5) (by decide) opcode (by omega) (by omega))⟩
  · exact ⟨rfl, congrArg ([·]) (one_append_extractLsb' (k := 2) (n := 6) (by decide) opcode (by omega) (by omega))⟩
  · exact ⟨rfl, congrArg ([·]) (one_append_extractLsb' (k := 1) (n := 7) (by decide) opcode (by omega) (by omega))⟩

/-! ### Frame rows -/

theorem decode_inbound {f : Frame} (h : f.valid T = true) (now : Time) (rest : List Byte) :
    decode (.inbound now) (f.bytes ++ rest) T = .ok (inboundInstr f now, rest) := by
  rw [decode, decodeFrame_bytes h]

theorem decode_outbound {f : Frame} (h : f.valid T = true) (hi : outboundInstr f = some i) (rest : List Byte) :
    decode .outbound (f.bytes ++ rest) T = .ok (i, rest) := by
  rw [decode, decodeFrame_bytes h]
  simp only [hi]

theorem payloadLenOk_iff (payload : List Byte) :
    payloadLenOk payload = true ↔ 1 ≤ payload.length ∧ payload.length ≤ 62 := by
  simp [payloadLenOk]

/-- The frame of an inbound row's address, type and payload is read back as that row. -/
theorem decode_inbound_build (now : Time) {deviceAddr type : Byte} {payload : List Byte}
    (h : payloadLenOk payload = true) (rest : List Byte) :
    decode (.inbound now) ((Frame.build deviceAddr type payload T).bytes ++ rest) T =
      .ok (inboundInstr (Frame.build deviceAddr type payload T) now, rest) :=
  have hl := (payloadLenOk_iff payload).1 h
  decode_inbound (Frame.build_valid _ _ hl.1 hl.2) now rest

/-! ### Reading an encoding back -/

/-- Decoding an encoding gives the instruction back and leaves what follows it, in an instance of any table. -/
theorem decode_encode (T : CrcTable) (i : Instr) (rest : List Byte) (h : i.wellFormed = true) :
    decode i.port (encode i T ++ rest) T = .ok (i, rest) := by
  cases i with
  | reset | encCommand | reserved07 => rfl
  | rxByte b now => exact congrArg (fun v => Except.ok (Instr.rxByte b v, rest)) (word_of_beBytes32 now)
  | poll now => exact congrArg (fun v => Except.ok (Instr.poll v, rest)) (word_of_beBytes32 now)
  | encChannels ch => exact decodeEncChannels_flatMap (beq_iff_eq.1 h) rest
  | crc8 data => exact decodeCrc8_append (of_decide_eq_true h) rest
  | unpackChannels payload => exact decodeUnpackChannels_append (beq_iff_eq.1 h) rest
  | reserved08 low => exact decodeOperation_of_row (k := 5) (by decide) (by decide) rfl (decodeReserved_08 low) rest
  | reserved10 low => exact decodeOperation_of_row (k := 4) (by decide) (by decide) rfl (decodeReserved_10 low) rest
  | reserved20 low => exact decodeOperation_of_row (k := 3) (by decide) (by decide) rfl (decodeReserved_20 low) rest
  | reserved40 low => exact decodeOperation_of_row (k := 2) (by decide) (by decide) rfl (decodeReserved_40 low) rest
  | reserved80 low => exact decodeOperation_of_row (k := 1) (by decide) (by decide) rfl (decodeReserved_80 low) rest
  | frameChannelsOut payload =>
    have hl : payload.length = 22 := beq_iff_eq.1 h
    exact decode_outbound (Frame.build_valid _ _ (by omega) (by omega)) (outboundInstr_channelsFrame hl) rest
  | frameCommandOut commandId value =>
    exact decode_outbound (Frame.build_valid _ _ (by simp) (by simp)) (outboundInstr_commandFrame commandId value) rest
  | frameChannelsIn payload now | frameBattery payload now | frameGps payload now | frameVario payload now
  | frameBaro payload now | frameAttitude payload now | frameLinkStats payload now =>
    exact decode_inbound_build now h rest
  | frameOtherIn deviceAddr type payload now =>
    obtain ⟨hp, hrow⟩ := Bool.and_eq_true_iff.1 h
    refine (decode_inbound_build now hp rest).trans ?_
    rw [inboundInstr_of_not_hasOwnRow (Bool.not_eq_true' _ ▸ hrow)]
    rfl

/-! ### What the decoder reads -/

theorem decodeRxByte_spells (h : decodeRxByte bytes = .ok (i, rest)) :
    i.wellFormed = true ∧ encode i T ++ rest = opRxByte :: bytes := by
  unfold decodeRxByte at h
  split at h
  · cases h
    refine ⟨rfl, ?_⟩
    rw [encode, beBytes32_append]
    rfl
  · cases h

theorem decodePoll_spells (h : decodePoll bytes = .ok (i, rest)) :
    i.wellFormed = true ∧ encode i T ++ rest = opPoll :: bytes := by
  unfold decodePoll at h
  split at h
  · cases h
    refine ⟨rfl, ?_⟩
    rw [encode, beBytes32_append]
    rfl
  · cases h

theorem decodeEncChannels_spells (h : decodeEncChannels bytes = .ok (i, rest)) :
    i.wellFormed = true ∧ encode i T ++ rest = opEncChannels :: bytes := by
  unfold decodeEncChannels at h
  split at h
  · next operands _ ht =>
    cases h
    obtain ⟨rfl, hl⟩ := takeBytes_eq_some ht
    obtain ⟨hflat, hlen⟩ := flatMap_halvesOf 16 operands hl
    refine ⟨beq_iff_eq.2 hlen, ?_⟩
    rw [encode, hflat]
    rfl
  · cases h

theorem decodeEncCommand_spells (h : decodeEncCommand bytes = .ok (i, rest)) :
    i.wellFormed = true ∧ encode i T ++ rest = opEncCommand :: bytes := by
  unfold decodeEncCommand at h
  split at h
  · cases h; exact ⟨rfl, rfl⟩
  · cases h

theorem decodeCrc8_spells (h : decodeCrc8 bytes = .ok (i, rest)) :
    i.wellFormed = true ∧ encode i T ++ rest = opCrc8 :: bytes := by
  cases bytes with
  | nil => cases h
  | cons n bytes =>
    rw [decodeCrc8] at h
    split at h
    · next data _ ht =>
      cases h
      obtain ⟨rfl, hl⟩ := takeBytes_eq_some ht
      have hn := n.isLt
      refine ⟨decide_eq_true (by omega), ?_⟩
      rw [encode, hl, BitVec.ofNat_toNat, BitVec.setWidth_eq]
      rfl
    · cases h

theorem decodeUnpackChannels_spells (h : decodeUnpackChannels bytes = .ok (i, rest)) :
    i.wellFormed = true ∧ encode i T ++ rest = opUnpackChannels :: bytes := by
  unfold decodeUnpackChannels at h
  split at h
  · next ht =>
    cases h
    obtain ⟨rfl, hl⟩ := takeBytes_eq_some ht
    exact ⟨beq_iff_eq.2 hl, rfl⟩
  · cases h

/-- An opcode byte that is none of the seven operation codes is reserved (30_encoding.md R102). -/
theorem seven_le_of_ne {opcode : Byte} (h0 : opcode ≠ opReset) (h1 : opcode ≠ opRxByte) (h2 : opcode ≠ opPoll)
    (h3 : opcode ≠ opEncChannels) (h4 : opcode ≠ opEncCommand) (h5 : opcode ≠ opCrc8)
    (h6 : opcode ≠ opUnpackChannels) : 7 ≤ opcode.toNat := by
  simp only [opReset, opRxByte, opPoll, opEncChannels, opEncCommand, opCrc8, opUnpackChannels] at *
  bv_omega

theorem decodeOperation_spells (h : decodeOperation bytes = .ok (i, rest)) :
    i.wellFormed = true ∧ encode i T ++ rest = bytes := by
  cases bytes with
  | nil => cases h
  | cons opcode bytes =>
    rw [decodeOperation] at h
    split_ifs at h with h0 h1 h2 h3 h4 h5 h6
    · cases h; exact ⟨rfl, by rw [h0]; rfl⟩
    · rw [h1]; exact decodeRxByte_spells h
    · rw [h2]; exact decodePoll_spells h
    · rw [h3]; exact decodeEncChannels_spells h
    · rw [h4]; exact decodeEncCommand_spells h
    · rw [h5]; exact decodeCrc8_spells h
    · rw [h6]; exact decodeUnpackChannels_spells h
    · cases h
      obtain ⟨hw, he⟩ := decodeReserved_spells (T := T) (seven_le_of_ne h0 h1 h2 h3 h4 h5 h6)
      exact ⟨hw, by rw [he]; rfl⟩

/-- What the decoder reads, in an instance of any table: a well-formed instruction of the port, spelled by the bytes at
the front. -/
theorem decode_spells {port : Port} (h : decode port bytes T = .ok (i, rest)) :
    i.wellFormed = true ∧ i.port = port ∧ encode i T ++ rest = bytes := by
  cases port with
  | operation =>
    obtain ⟨hw, he⟩ := decodeOperation_spells (T := T) h
    exact ⟨hw, decodeOperation_port h, he⟩
  | inbound now =>
    rw [decode] at h
    split at h
    · next f _ hf =>
      cases h
      obtain ⟨hv, rfl⟩ := decodeFrame_eq_ok hf
      obtain ⟨hw, hp, he⟩ := inboundInstr_encode hv now
      exact ⟨hw, hp, by rw [he]⟩
    · cases h
  | outbound =>
    rw [decode] at h
    split at h
    · next f _ hf =>
      split at h
      · next hi =>
        cases h
        obtain ⟨hv, rfl⟩ := decodeFrame_eq_ok hf
        obtain ⟨hw, hp, he⟩ := outboundInstr_encode hv hi
        exact ⟨hw, hp, by rw [he]⟩
      · cases h
    · cases h

end Sys2Proof

namespace Sys2Proof.Machine

variable {s : State}

/-! ### What the stream decides -/

/-- Settles O1: each constructor's encoding is read back by the decoder of its port. -/
theorem decodeOfEncodeIsTheInstruction : Obligations.DecodeOfEncodeIsTheInstruction :=
  fun i rest h => decode_encode crcTable i rest h

/-- Settles O2: each decoder takes its operands off the front and keeps every byte of them. -/
theorem decodedInstructionIsWellFormedAndReencodes : Obligations.DecodedInstructionIsWellFormedAndReencodes :=
  fun _ _ _ _ h => decode_spells h

/-- Settles O3: five evaluations of the decoder. -/
theorem writtenOutWordsDecode : Obligations.WrittenOutWordsDecode := by
  refine ⟨rfl, rfl, rfl, ?_, ?_⟩ <;> decide +kernel

/-- Settles O4: a stream that spells an instruction is not idle. -/
theorem stepRunsTheDecodedInstruction : Obligations.StepRunsTheDecodedInstruction :=
  fun _ _ _ h => step_of_decode h

/-- Settles O5: an empty operation stream is idle. -/
theorem stepWithNothingInvokedHoldsTheState : Obligations.StepWithNothingInvokedHoldsTheState :=
  fun _ hs hp => if_pos ⟨hs, hp⟩

/-- A step over bytes that spell no instruction is refused with the decoder's reason. -/
theorem step_of_decode_error {e : DecodeError} (hne : s.stream ≠ []) (h : decode s.port s.stream = .error e) :
    step s = .refused (.undecodable e) := by
  rw [step, fetchAndRun, if_neg fun hidle => hne hidle.1, params_crcTable, h]

theorem decodeRxByte_of_lt {operands : List Byte} (h : operands.length < 5) :
    decodeRxByte operands = .error (.truncatedOperation opRxByte) := by
  unfold decodeRxByte
  split
  · simp only [List.length_cons] at h; omega
  · rfl

theorem decodePoll_of_lt {operands : List Byte} (h : operands.length < 4) :
    decodePoll operands = .error (.truncatedOperation opPoll) := by
  unfold decodePoll
  split
  · simp only [List.length_cons] at h; omega
  · rfl

theorem decodeEncCommand_of_lt {operands : List Byte} (h : operands.length < 2) :
    decodeEncCommand operands = .error (.truncatedOperation opEncCommand) := by
  unfold decodeEncCommand
  split
  · simp only [List.length_cons] at h; omega
  · rfl

/-- The operations with operands, as the spec counts their bytes, CRC8 by its length byte alone, are not read where an
operand byte is missing. -/
theorem decodeOperation_of_lt {opcode : Byte} {need : Nat} {operands : List Byte}
    (hrow : (opcode, need) ∈ ([(0x01, 5), (0x02, 4), (0x03, 32), (0x04, 2), (0x05, 1), (0x06, 22)] : List (Byte × Nat)))
    (h : operands.length < need) :
    decodeOperation (opcode :: operands) = .error (.truncatedOperation opcode) := by
  simp only [List.mem_cons, Prod.mk.injEq, List.not_mem_nil, or_false] at hrow
  rcases hrow with ⟨rfl, rfl⟩ | ⟨rfl, rfl⟩ | ⟨rfl, rfl⟩ | ⟨rfl, rfl⟩ | ⟨rfl, rfl⟩ | ⟨rfl, rfl⟩
  · exact decodeRxByte_of_lt h
  · exact decodePoll_of_lt h
  · change decodeEncChannels operands = _
    rw [decodeEncChannels, takeBytes_of_lt h]
    rfl
  · exact decodeEncCommand_of_lt h
  · rw [List.length_eq_zero_iff.1 (Nat.lt_one_iff.1 h)]
    rfl
  · change decodeUnpackChannels operands = _
    rw [decodeUnpackChannels, takeBytes_of_lt h]
    rfl

/-- Settles O6: with an operand byte missing the decoder reads no instruction, and the step is refused with its
reason. -/
theorem stepRefusesUnsuppliedOperands : Obligations.StepRefusesUnsuppliedOperands := by
  refine ⟨?crc8, ?others⟩
  case crc8 =>
    intro s n data hp hs h
    refine step_of_decode_error (by simp [hs]) ?_
    rw [hp, hs]
    change decodeCrc8 (n :: data) = _
    rw [decodeCrc8, takeBytes_of_lt h]
  case others =>
    intro s opcode need operands hrow hp hs h
    refine step_of_decode_error (by simp [hs]) ?_
    rw [hp, hs]
    exact decodeOperation_of_lt hrow h

/-- An instruction that is refused is one of the six reserved rows, and the reason carries the one byte that spells
it. -/
theorem exec_eq_refused {i : Instr} {r : Refusal} (hc : s.cursor < capacity) (h : exec i s = .refused r) :
    ∃ opcode, r = .reservedOpcode opcode ∧ 7 ≤ opcode.toNat ∧ encode i = [opcode] := by
  by_cases hi : Spec.notReserved i
  · obtain ⟨t, ht⟩ := execWith_completes (p := Config.params) i hc hi
    rw [execWith_params, h] at ht
    cases ht
  · cases i with
    | reserved07 => cases h; exact ⟨_, rfl, by decide, rfl⟩
    | reserved08 low =>
      cases h; exact ⟨_, rfl, by rw [toNat_one_append (k := 5) (by decide)]; omega, rfl⟩
    | reserved10 low =>
      cases h; exact ⟨_, rfl, by rw [toNat_one_append (k := 4) (by decide)]; omega, rfl⟩
    | reserved20 low =>
      cases h; exact ⟨_, rfl, by rw [toNat_one_append (k := 3) (by decide)]; omega, rfl⟩
    | reserved40 low =>
      cases h; exact ⟨_, rfl, by rw [toNat_one_append (k := 2) (by decide)]; omega, rfl⟩
    | reserved80 low =>
      cases h; exact ⟨_, rfl, by rw [toNat_one_append (k := 1) (by decide)]; omega, rfl⟩
    | reset | rxByte | poll | encChannels | encCommand | crc8 | unpackChannels | frameChannelsOut | frameCommandOut
    | frameChannelsIn | frameBattery | frameGps | frameVario | frameBaro | frameAttitude | frameLinkStats
    | frameOtherIn => exact absurd trivial hi

/-- The only meaning that faults is RX_BYTE's, where the buffer has no room. -/
theorem exec_ne_fault {i : Instr} (hc : s.cursor < capacity) (e : Fault) : exec i s ≠ .fault e := by
  intro h
  by_cases hi : Spec.notReserved i
  · obtain ⟨t, ht⟩ := execWith_completes (p := Config.params) i hc hi
    rw [execWith_params, h] at ht
    cases ht
  · cases i with
    | reserved07 | reserved08 | reserved10 | reserved20 | reserved40 | reserved80 => cases h
    | reset | rxByte | poll | encChannels | encCommand | crc8 | unpackChannels | frameChannelsOut | frameCommandOut
    | frameChannelsIn | frameBattery | frameGps | frameVario | frameBaro | frameAttitude | frameLinkStats
    | frameOtherIn => exact hi trivial

/-- Settles O48: a step is idle, refused by the decoder, or the execution of what the decoder reads, which faults in no
state of the invariant and is refused for a reserved opcode only; its encoding stands at the front of the stream. -/
theorem stepStopsOnlyOnHostActionsOutsideTheSpec : Obligations.StepStopsOnlyOnHostActionsOutsideTheSpec := by
  rintro s ⟨hc, -⟩
  by_cases hidle : s.stream = [] ∧ s.port = .operation
  · have hstep : step s = .next s := if_pos hidle
    rw [hstep]
    exact ⟨nofun, nofun⟩
  · cases hd : decode s.port s.stream with
    | error e =>
      have hstep : step s = .refused (.undecodable e) := by
        rw [step, fetchAndRun, if_neg hidle, params_crcTable, hd]
      rw [hstep]
      exact ⟨nofun, fun r hr => .inl ⟨e, by cases hr; rfl, rfl⟩⟩
    | ok read =>
      obtain ⟨i, rest⟩ := read
      rw [step_of_decode hd]
      refine ⟨exec_ne_fault hc, fun r hr => .inr ?_⟩
      obtain ⟨opcode, hopcode, h7, he⟩ := exec_eq_refused (s := s.fetched rest) hc hr
      refine ⟨opcode, hopcode, h7, ?_⟩
      rw [← (decode_spells hd).2.2, he]
      rfl

end Sys2Proof.Machine
end

section
/-! The checksum by the generating rule and by a table (40_checksum.md R120 to R122), its append property and what it
detects. After them the encoder and the two outbound rows (30_encoding.md R97, R98; 41_encoder.md). -/

namespace Sys2Proof

open Sys2Proof.Spec

variable {T : CrcTable} {data : List Byte}

/-! ### The checksum as a fold -/

theorem crc8From_eq_foldl (T : CrcTable) (c : Byte) (data : List Byte) :
    crc8From T c data = data.foldl (fun crc b => tableRead T (crc ^^^ b)) c := by
  induction data generalizing c with
  | nil => rfl
  | cons b data ih => exact ih _

/-- The default table's checksum is that of the generating rule. -/
theorem crc8_eq_bitCrc (data : List Byte) : crc8 data crcTable = bitCrc data := by
  rw [crc8, crc8From_eq_foldl, bitCrc]
  simp only [tableRead_crcTable]

theorem tableRead_eq_getD (T : CrcTable) (a : Byte) : tableRead T a = T.toList.getD a.toNat 0 := by
  rw [List.getD_eq_getElem?_getD, show T.toList[a.toNat]? = some (tableRead T a) from tableRead_toList T a]
  rfl

/-- An instance's checksum is that of its table. -/
theorem crc8_eq_tableCrc (T : CrcTable) (data : List Byte) : crc8 data T = tableCrc T data := by
  rw [crc8, crc8From_eq_foldl, tableCrc]
  simp only [tableRead_eq_getD]

/-! ### What the checksum detects -/

theorem tableRead_crcTable_eq_zero_iff (a : Byte) : tableRead crcTable a = 0 ↔ a = 0 := by
  have h0 : tableRead crcTable 0 = 0 := by rw [tableRead_crcTable]; decide
  exact ⟨fun h => tableRead_injective a 0 (h.trans h0.symm), fun h => h ▸ h0⟩

/-- The append property: a checksum behind its data leaves 0x00, and nothing else does (40_checksum.md). -/
theorem crc8_append_eq_zero_iff (data : List Byte) (c : Byte) :
    crc8 (data ++ [c]) crcTable = 0 ↔ crc8 data crcTable = c := by
  rw [crc8_append_singleton, tableRead_crcTable_eq_zero_iff]
  exact BitVec.xor_eq_zero_iff

/-- A changed byte changes the checksum, because no two entries of the table are equal. -/
theorem crc8_ne_of_ne {b c : Byte} (h : b ≠ c) (before after : List Byte) :
    crc8 (before ++ b :: after) crcTable ≠ crc8 (before ++ c :: after) crcTable := by
  intro heq
  rw [crc8, crc8, crc8From_append, crc8From_append, crc8From_cons, crc8From_cons] at heq
  exact h ((BitVec.xor_right_inj _).1 (tableRead_injective _ _ (crc8From_injective _ _ _ heq)))

theorem one_shiftLeft_ne_zero {k : Nat} (h : k < 8) : 1#8 <<< k ≠ 0 := by
  intro h0
  have hbit : (1#8 <<< k).getLsbD k = true := by simp [h]
  rw [h0] at hbit
  simp at hbit

/-- The frame with its size and checksum filled in is the one the spec writes out. -/
theorem build_eq_wireFrame (deviceAddr type : Byte) (payload : List Byte) :
    Frame.build deviceAddr type payload crcTable = wireFrame deviceAddr type payload := by
  rw [Frame.build, wireFrame, crc8_eq_bitCrc]

/-! ### Packing -/

/-- Two payloads of 22 bytes with the same stream bits are equal. -/
theorem eq_of_streamBits {q r : List Byte} (hq : q.length = 22) (hr : r.length = 22)
    (h : ∀ j b, j < 22 → b < 8 → (q.getD j 0).getLsbD b = (r.getD j 0).getLsbD b) : q = r := by
  refine List.ext_getElem (hq.trans hr.symm) fun j hj hj' => BitVec.eq_of_getLsbD_eq fun b hb => ?_
  simpa [List.getD_eq_getElem?_getD, hj, hj'] using h j b (hq ▸ hj) hb

/-- Two lists of sixteen channel values with the same bits are equal. -/
theorem eq_of_channelBits {v w : List Half} (hv : v.length = 16) (hw : w.length = 16)
    (h : ∀ i b, i < 16 → b < 16 → (v.getD i 0).getLsbD b = (w.getD i 0).getLsbD b) : v = w := by
  refine List.ext_getElem (hv.trans hw.symm) fun i hi hi' => BitVec.eq_of_getLsbD_eq fun b hb => ?_
  simpa [List.getD_eq_getElem?_getD, hi, hi'] using h i b (hv ▸ hi) hb

theorem getD_map_maskChannel (ch : List Half) (i : Nat) :
    (ch.map maskChannel).getD i 0 = maskChannel (ch.getD i 0) := by
  rw [List.getD_eq_getElem?_getD, List.getD_eq_getElem?_getD, List.getElem?_map]
  cases ch[i]? <;> rfl

theorem getLsbD_maskChannel (c : Half) (b : Nat) : (maskChannel c).getLsbD b = (decide (b < 11) && c.getLsbD b) := by
  simp [maskChannel]

/-- Bit b of channel i stands at stream bit 11·i + b of the packed payload (30_encoding.md R89). -/
theorem getLsbD_pack_maskChannel (ch : List Half) {i b : Nat} (hi : i < 16) (hb : b < 11) :
    ((pack (ch.map maskChannel)).getD ((11 * i + b) / 8) 0).getLsbD ((11 * i + b) % 8) = (ch.getD i 0).getLsbD b := by
  have hk : 8 * ((11 * i + b) / 8) + (11 * i + b) % 8 = 11 * i + b := Nat.div_add_mod _ 8
  rw [getLsbD_pack _ (by omega) (by omega), hk, show (11 * i + b) / 11 = i by omega,
    show (11 * i + b) % 11 = b by omega, getD_map_maskChannel, getLsbD_maskChannel, decide_eq_true hb, Bool.true_and]

/-- A value modulo 2048 is its low 11 bits, read as signed or as unsigned. -/
theorem toInt_emod (c : Half) : c.toInt % 2048 = ((c.toNat % 2048 : Nat) : Int) := by
  rw [BitVec.toInt_eq_toNat_cond]
  split <;> omega

theorem getLsbD_ofNat_mod (n : Nat) {b : Nat} (hb : b < 16) :
    (BitVec.ofNat 16 (n % 2048)).getLsbD b = (decide (b < 11) && n.testBit b) := by
  rw [BitVec.getLsbD_ofNat, decide_eq_true hb, Bool.true_and]
  exact Nat.testBit_mod_two_pow n 11 b

theorem getLsbD_eq_testBit_emod (c : Half) {b : Nat} (hb : b < 11) :
    c.getLsbD b = (c.toInt % 2048).toNat.testBit b := by
  rw [toInt_emod, Int.toNat_natCast, show c.toNat % 2048 = c.toNat % 2 ^ 11 from rfl, Nat.testBit_mod_two_pow,
    decide_eq_true hb, Bool.true_and]
  rfl

theorem maskChannel_ofInt_emod (c : Half) : maskChannel (BitVec.ofInt 16 (c.toInt % 2048)) = maskChannel c := by
  refine BitVec.eq_of_getLsbD_eq fun b hb => ?_
  rw [toInt_emod, BitVec.ofInt_natCast, getLsbD_maskChannel, getLsbD_maskChannel, getLsbD_ofNat_mod _ (by omega),
    decide_eq_true hb]
  rfl

/-- Unpacking a packed payload gives the low 11 bits of each value (43_dispatcher.md section 5). -/
theorem unpack_pack {ch : List Half} (h : ch.length = 16) :
    unpack (pack (ch.map maskChannel)) = ch.map fun c => BitVec.ofNat 16 (c.toNat % 2048) := by
  refine eq_of_channelBits (length_unpack _) (by rw [List.length_map, h]) fun i b hi hb => ?_
  have hget : (ch.map fun c => BitVec.ofNat 16 (c.toNat % 2048)).getD i 0 =
      BitVec.ofNat 16 ((ch.getD i 0).toNat % 2048) := by
    simp [List.getD_eq_getElem?_getD, h, hi]
  rw [getLsbD_unpack _ hi, hget, getLsbD_ofNat_mod _ hb]
  by_cases hb' : b < 11
  · rw [getLsbD_pack_maskChannel ch hi hb']
    rfl
  · rw [decide_eq_false hb', Bool.false_and, Bool.false_and]

/-- Packing an unpacked payload gives it back. -/
theorem pack_unpack {payload : List Byte} (h : payload.length = 22) :
    pack ((unpack payload).map maskChannel) = payload := by
  refine eq_of_streamBits (length_pack _) h fun j b hj hb => ?_
  have hk : 11 * ((8 * j + b) / 11) + (8 * j + b) % 11 = 8 * j + b := Nat.div_add_mod _ 11
  have hlt : (8 * j + b) % 11 < 11 := Nat.mod_lt _ (by decide)
  rw [getLsbD_pack _ hj hb, getD_map_maskChannel, getLsbD_maskChannel, getLsbD_unpack _ (by omega), hk,
    decide_eq_true hlt, Bool.true_and, Bool.true_and, show (8 * j + b) / 8 = j by omega,
    show (8 * j + b) % 8 = b by omega]

end Sys2Proof

namespace Sys2Proof.Machine

open Sys2Proof.Spec

variable {p : Params} {s : State}

/-! ### What the operations answer -/

/-- Settles O9: the table is the one of the generating rule. -/
theorem crc8AnswersThePolynomialChecksum : Obligations.Crc8AnswersThePolynomialChecksum := fun data s =>
  congrArg (fun c => answer (.byte c) s) (crc8_eq_bitCrc data)

/-- Settles O10: of the three tests of a valid frame the checksum's is left, and it is the append property. -/
theorem frameIsValidExactlyWhenResidueIsZero : Obligations.FrameIsValidExactlyWhenResidueIsZero := by
  intro f hmin hmax hlen
  rw [Frame.valid_iff, sizeOk_iff, ← List.cons_append, crc8_append_eq_zero_iff]
  exact ⟨fun ⟨_, _, hcrc⟩ => hcrc, fun hcrc => ⟨⟨hmin, hmax⟩, hlen, hcrc⟩⟩

/-- Settles O11: a flipped bit is a changed byte. -/
theorem singleBitFlipChangesTheChecksum : Obligations.SingleBitFlipChangesTheChecksum := by
  intro before after b k hk
  refine crc8_ne_of_ne (fun h => one_shiftLeft_ne_zero hk ?_) before after
  exact (BitVec.xor_right_inj b).1 (h.trans BitVec.xor_zero.symm)

/-- ENC_CHANNELS for any parameters and any list of values: the packed payload behind the three fixed bytes, and behind
it the checksum by the table of the parameters (41_encoder.md R132). -/
theorem execEncChannelsWith_eq (p : Params) (ch : List Half) (s : State) :
    execEncChannelsWith p ch s = .next { s with result := .frame ([0xEE, 0x18, 0x16] ++ pack (ch.map maskChannel) ++
      [crc8 (0x16 :: pack (ch.map maskChannel)) p.crcTable]) } :=
  congrArg (fun bytes => answer (.frame bytes) s) (channelsFrame_bytes p.crcTable (length_pack _))

/-- Settles O12: the payload is PACK's of the masked values. -/
theorem encChannelsAnswersThePackedFrame : Obligations.EncChannelsAnswersThePackedFrame := by
  intro ch s _
  refine ⟨pack (ch.map maskChannel), length_pack _, ?_, fun i b hi hb => getLsbD_pack_maskChannel ch hi hb⟩
  rw [← crc8_eq_bitCrc]
  exact execEncChannelsWith_eq Config.params ch s

/-- Settles O13: masking a value is reducing it modulo 2048, so the reduced list is masked to the same values. -/
theorem encChannelsTruncatesEachValueToElevenBits : Obligations.EncChannelsTruncatesEachValueToElevenBits := by
  refine ⟨fun ch s _ => ?packed, fun ch s => ?reduced⟩
  case packed =>
    refine ⟨pack (ch.map maskChannel), _, length_pack _, execEncChannelsWith_eq Config.params ch s,
      fun i b hi hb => ?_⟩
    rw [getLsbD_pack_maskChannel ch hi hb, getLsbD_eq_testBit_emod _ hb]
  case reduced =>
    have hmask : (ch.map fun c => BitVec.ofInt 16 (c.toInt % 2048)).map maskChannel = ch.map maskChannel := by
      rw [List.map_map]
      exact List.map_congr_left fun c _ => maskChannel_ofInt_emod c
    refine ⟨_, execEncChannelsWith_eq Config.params ch s, ?_⟩
    rw [← hmask]
    exact execEncChannelsWith_eq Config.params _ s

/-- Settles O15: the images of R97 and R98, their checksum by the generating rule. -/
theorem outboundFrameRowsAnswerTheEncodersImages : Obligations.OutboundFrameRowsAnswerTheEncodersImages := by
  refine ⟨fun payload s h => ?_, fun commandId value s => ?_⟩
  · rw [← crc8_eq_bitCrc]
    exact congrArg (fun bytes => answer (.frame bytes) s) (channelsFrame_bytes crcTable h)
  · rw [← crc8_eq_bitCrc]
    exact congrArg (fun bytes => answer (.frame bytes) s) (commandFrame_bytes commandId value crcTable)

/-- The payload of a channels frame's bytes. -/
theorem take_drop_channelsFrame {payload : List Byte} (h : payload.length = 22) (crc : Byte) :
    (([0xEE, 0x18, 0x16] ++ payload ++ [crc]).drop 3).take 22 = payload := by
  rw [List.append_assoc]
  exact List.take_left' h

/-- Settles O17: PACK and the unpack routine are inverse, and both operations hand their payload over unchanged. -/
theorem packAndUnpackAreInverse : Obligations.PackAndUnpackAreInverse := by
  refine ⟨fun ch s h => ?_, fun payload s h => ?_⟩
  · refine ⟨_, execEncChannelsWith_eq Config.params ch s, ?_⟩
    rw [take_drop_channelsFrame (length_pack _), ← unpack_pack h]
    rfl
  · refine ⟨unpack payload, _, rfl, execEncChannelsWith_eq Config.params _ s, ?_⟩
    rw [take_drop_channelsFrame (length_pack _), pack_unpack h]

end Sys2Proof.Machine
end

section
/-! The inbound frame rows (43_dispatcher.md sections 1 to 3): each is a found frame, and some change nothing but the
outputs. After them RESET and the buffer's two writers (70_reset_and_hazards.md; 42_reassembler.md section 1). -/

namespace Sys2Proof.Machine

open Sys2Proof.Spec

variable {p : Params} {i : Instr} {now : Time} {s : State}

/-- A well-formed inbound row is the row of the valid frame its bytes spell. -/
theorem exists_inboundInstr {T : CrcTable} (hw : i.wellFormed = true) (hport : i.port = .inbound now) :
    ∃ f, f.valid T = true ∧ i = inboundInstr f now ∧ f.bytes = encode i T := by
  rcases decode_cases (decode_encode T i [] hw) with ⟨f, now', hv, rfl⟩ | hop | hout
  · obtain ⟨-, hp, he⟩ := inboundInstr_encode hv now'
    cases hp.symm.trans hport
    exact ⟨f, hv, rfl, he.symm⟩
  · cases hop.symm.trans hport
  · cases hout.symm.trans hport

/-- Settles O25: the row hands its frame over, and a found frame is its event and at most one reason behind it. -/
theorem inboundFrameRowsEmitTheirFrame : Obligations.InboundFrameRowsEmitTheirFrame := by
  intro i now s hw hport
  obtain ⟨f, hv, rfl, he⟩ := exists_inboundInstr (T := crcTable) hw hport
  obtain ⟨why, hwhy, -⟩ := frameFound_trace f now s
  exact ⟨_, f, why, exec_inboundInstr hv now s, he, frameFound_events f now, hwhy, rfl⟩

/-- Settles O26: the payload holds the layout, so the link is marked alive in the state with the event emitted. -/
theorem channelsFrameMarksTheLinkAlive : Obligations.ChannelsFrameMarksTheLinkAlive := by
  intro p now s hl _
  have hrow := runInbound_build_of_le (T := crcTable) (type := typeChannels) rfl hl now s
  rw [← build_eq_wireFrame]
  exact hrow

/-- A frame whose dispatch only leaves a trace changes nothing but the outputs. -/
theorem runInbound_of_dispatch_record {f : Frame} {why : TraceEntry}
    (h : dispatch f now (emit f s) = record why (emit f s)) : runInbound f now s = .next (eventOnly f why s) := by
  rw [runInbound, frameFound, h, eventOnly, record, emit, giveResult, List.append_assoc]
  rfl

/-- Settles O27: the dispatcher passes over the frame for its address or for its type. -/
theorem otherInboundFrameIsOnlyAnEvent : Obligations.OtherInboundFrameIsOnlyAnEvent := by
  intro deviceAddr type p now s hw
  have hrow : hasOwnRow deviceAddr type = false := Bool.not_eq_true' _ ▸ (Bool.and_eq_true_iff.1 hw).2
  rw [← build_eq_wireFrame]
  by_cases ha : deviceAddr = 0xEA
  · have hn : layoutLen type = none := by simpa [hasOwnRow, addrRadio, ha] using hrow
    rw [if_pos ha]
    exact runInbound_of_dispatch_record (dispatch_of_unrecognized ha hn now _)
  · rw [if_neg ha]
    exact runInbound_of_dispatch_record (dispatch_of_otherAddr ha now _)

/-- A recognized frame with too short a payload changes nothing but the outputs (43_dispatcher.md R182; D7). -/
theorem runInbound_build_of_lt {type : Byte} {n : Nat} {payload : List Byte} (h : layoutLen type = some n)
    (hl : payload.length < n) (now : Time) (s : State) :
    runInbound (Frame.build addrRadio type payload crcTable) now s =
      .next (eventOnly (wireFrame addrRadio type payload) (.eShort type payload.length) s) := by
  rw [← build_eq_wireFrame]
  exact runInbound_of_dispatch_record (dispatch_build_of_lt h payload hl now _)

/-- Settles O28: one fact for the seven recognized types. -/
theorem shortPayloadIsOnlyAnEvent : Obligations.ShortPayloadIsOnlyAnEvent := by
  intro p now s _
  exact ⟨fun hl => runInbound_build_of_lt (type := typeChannels) rfl hl now s,
    fun hl => runInbound_build_of_lt (type := typeBattery) rfl hl now s,
    fun hl => runInbound_build_of_lt (type := typeGps) rfl hl now s,
    fun hl => runInbound_build_of_lt (type := typeVario) rfl hl now s,
    fun hl => runInbound_build_of_lt (type := typeBaro) rfl hl now s,
    fun hl => runInbound_build_of_lt (type := typeAttitude) rfl hl now s,
    fun hl => runInbound_build_of_lt (type := typeLinkStats) rfl hl now s⟩

/-! ### RESET, the parameters and the buffer's writers -/

/-- Settles O8: the reset record, written out. -/
theorem resetGivesTheResetValues : Obligations.ResetGivesTheResetValues := fun _ => ⟨_, _, rfl⟩

/-- Settles O38: arm by arm `exec` is `execWith Config.params`, hence so is the step, and the table is that record's. -/
theorem operationsRunAtTheInstancesParameters : Obligations.OperationsRunAtTheInstancesParameters :=
  ⟨fun i s => (execWith_params i s).symm, fun s => (stepWith_params s).symm, params_crcTable⟩

/-- Settles O50: the buffer is empty and no frame has been found. -/
theorem resetMeetsTheInvariant : Obligations.ResetMeetsTheInvariant := ⟨by decide, nofun⟩

/-- Settles O51: the laws of Append and Shift on the held bytes. -/
theorem appendAndShiftActOnTheHeldBytes : Obligations.AppendAndShiftActOnTheHeldBytes := by
  refine ⟨fun b now s bytes h hl => ?_, fun n s bytes h _ _ => ⟨holds_shift h n, _, _, rfl⟩⟩
  have happ := append_of_lt (b := b) (now := now) (s := s) (h.1.trans_lt hl)
  exact ⟨_, _, happ, holds_append h happ, rfl⟩

end Sys2Proof.Machine
end

section
/-! What found frames make of the engine (42_reassembler.md R152; 43_dispatcher.md sections 1 to 3): the outputs, the
records and the link state after a sequence of found frames; one frame, an action, an evaluation and a flush; and what
every instruction makes of the outputs and the records. -/

namespace Sys2Proof.Machine

open Sys2Proof.Spec

variable {p : Params} {i : Instr} {now : Time} {s t u : State} {T : CrcTable} {f : Frame} {found found' : List Frame}
  {q : List Byte}

/-! ### Which payloads hold their layout -/

theorem batteryRecord_isSome_iff : (batteryRecord q).isSome = true ↔ 8 ≤ q.length := by
  refine ⟨fun h => ?_, fun h => ?_⟩
  · obtain ⟨r, hr⟩ := Option.isSome_iff_exists.1 h
    exact length_of_batteryOf (batteryOf_of_batteryRecord hr)
  · match q, h with
    | _ :: _ :: _ :: _ :: _ :: _ :: _ :: _ :: _, _ => rfl

theorem gpsRecord_isSome_iff : (gpsRecord q).isSome = true ↔ 15 ≤ q.length := by
  refine ⟨fun h => ?_, fun h => ?_⟩
  · obtain ⟨r, hr⟩ := Option.isSome_iff_exists.1 h
    exact length_of_gpsOf (gpsOf_of_gpsRecord hr)
  · match q, h with
    | _ :: _ :: _ :: _ :: _ :: _ :: _ :: _ :: _ :: _ :: _ :: _ :: _ :: _ :: _ :: _, _ => rfl

theorem varioRecord_isSome_iff : (varioRecord q).isSome = true ↔ 2 ≤ q.length := by
  refine ⟨fun h => ?_, fun h => ?_⟩
  · obtain ⟨r, hr⟩ := Option.isSome_iff_exists.1 h
    exact length_of_varioOf (varioOf_of_varioRecord hr)
  · match q, h with
    | _ :: _ :: _, _ => rfl

theorem baroRecord_isSome_iff : (baroRecord q).isSome = true ↔ 4 ≤ q.length := by
  refine ⟨fun h => ?_, fun h => ?_⟩
  · obtain ⟨r, hr⟩ := Option.isSome_iff_exists.1 h
    exact length_of_baroOf (baroOf_of_baroRecord hr)
  · match q, h with
    | _ :: _ :: _ :: _ :: _, _ => rfl

theorem attitudeRecord_isSome_iff : (attitudeRecord q).isSome = true ↔ 6 ≤ q.length := by
  refine ⟨fun h => ?_, fun h => ?_⟩
  · obtain ⟨r, hr⟩ := Option.isSome_iff_exists.1 h
    exact length_of_attitudeOf (attitudeOf_of_attitudeRecord hr)
  · match q, h with
    | _ :: _ :: _ :: _ :: _ :: _ :: _, _ => rfl

theorem linkStatsRecord_isSome_iff : (linkStatsRecord q).isSome = true ↔ 10 ≤ q.length := by
  refine ⟨fun h => ?_, fun h => ?_⟩
  · obtain ⟨r, hr⟩ := Option.isSome_iff_exists.1 h
    exact length_of_linkStatsOf (linkStatsOf_of_linkStatsRecord hr)
  · match q, h with
    | _ :: _ :: _ :: _ :: _ :: _ :: _ :: _ :: _ :: _ :: _, _ => rfl

/-- What a channels payload makes of a link field: the mark where the payload holds the layout (43_dispatcher.md
R187). -/
def channelsMark {R : Type} (mark : R) (q : List Byte) : Option R := if 22 ≤ q.length then some mark else none

theorem channelsMark_isSome_iff {R : Type} {mark : R} : (channelsMark mark q).isSome = true ↔ 22 ≤ q.length := by
  simp [channelsMark]

theorem channelsMark_eq_some {R : Type} {mark r : R} (h : channelsMark mark q = some r) : r = mark := by
  unfold channelsMark at h
  split at h <;> cases h
  rfl

/-! ### One frame -/

theorem dispatch_of_short {n : Nat} (ha : f.deviceAddr = addrRadio) (hn : layoutLen f.type = some n)
    (hl : f.payload.length < n) (now : Time) (s : State) :
    dispatch f now s = record (.eShort f.type f.payload.length) s := by
  simp [dispatch, acceptAddrs, ha, hn, hl]

theorem dispatch_of_le {n : Nat} (ha : f.deviceAddr = addrRadio) (hn : layoutLen f.type = some n)
    (hl : n ≤ f.payload.length) (now : Time) (s : State) :
    dispatch f now s = runDecoder f.type f.payload now s := by
  simp [dispatch, acceptAddrs, ha, hn, Nat.not_lt.2 hl]

/-- Where one type's frames write a field, a dispatch does what the spec says: an accepted frame of the type whose
payload holds the layout replaces it whole, and every other frame leaves it alone. -/
theorem dispatch_field {R : Type} {get : State → R} {type : Byte} {n : Nat} {decoded : List Byte → Option R}
    (hn : layoutLen type = some n) (hsome : ∀ q, (decoded q).isSome = true ↔ n ≤ q.length)
    (hown : ∀ q r s, decoded q = some r → get (runDecoder type q now s) = r)
    (hrecord : ∀ e s, get (record e s) = get s)
    (hother : ∀ f s, f.type ≠ type → get (dispatch f now s) = get s) (f : Frame) (s : State) :
    get (dispatch f now s) = recordAfter type decoded [f] (get s) := by
  change _ = if f.deviceAddr = addrRadio ∧ f.type = type then (decoded f.payload).getD (get s) else get s
  by_cases htype : f.type = type
  · by_cases haddr : f.deviceAddr = addrRadio
    · rw [if_pos ⟨haddr, htype⟩]
      subst htype
      by_cases hl : n ≤ f.payload.length
      · obtain ⟨r, hr⟩ := Option.isSome_iff_exists.1 ((hsome _).2 hl)
        rw [dispatch_of_le haddr hn hl, hown _ r _ hr, hr, Option.getD_some]
      · have hnone : decoded f.payload = none := Option.not_isSome_iff_eq_none.1 fun h => hl ((hsome _).1 h)
        rw [dispatch_of_short haddr hn (Nat.not_le.1 hl), hrecord, hnone, Option.getD_none]
    · rw [if_neg fun h => haddr h.1, dispatch_of_otherAddr haddr, hrecord]
  · rw [if_neg fun h => htype h.2, hother _ _ htype]

/-- `t` differs from `s` at most where frames of this type write. -/
structure WritesOnlyFor (type : Byte) (s t : State) : Prop where
  linkIsUp : type ≠ typeChannels → t.linkIsUp = s.linkIsUp
  lastChannelsFrameTime : type ≠ typeChannels → t.lastChannelsFrameTime = s.lastChannelsFrameTime
  battery : type ≠ typeBattery → t.battery = s.battery
  gps : type ≠ typeGps → t.gps = s.gps
  vario : type ≠ typeVario → t.vario = s.vario
  baro : type ≠ typeBaro → t.baro = s.baro
  attitude : type ≠ typeAttitude → t.attitude = s.attitude
  linkStats : type ≠ typeLinkStats → t.linkStats = s.linkStats

/-- A dispatch writes no record but that of the frame's type, and the link state for channels only. -/
theorem dispatch_writesOnlyFor (f : Frame) (now : Time) (s : State) : WritesOnlyFor f.type s (dispatch f now s) := by
  rcases dispatch_cases f now s with ⟨e, h, -⟩ | ⟨-, ⟨htype, -, h⟩ | ⟨htype, r, -, h⟩ | ⟨htype, r, -, h⟩ |
    ⟨htype, r, -, h⟩ | ⟨htype, r, -, h⟩ | ⟨htype, r, -, h⟩ | ⟨htype, r, -, h⟩⟩
  · rw [h]
    constructor <;> exact fun _ => rfl
  all_goals
    rw [h, htype]
    constructor <;> simp

theorem dispatch_linkIsUp (f : Frame) (now : Time) (s : State) :
    (dispatch f now s).linkIsUp = recordAfter 0x16 (channelsMark true) [f] s.linkIsUp :=
  dispatch_field (get := State.linkIsUp) (n := 22) rfl (fun _ => channelsMark_isSome_iff)
    (fun _ _ _ h => (channelsMark_eq_some h).symm) (fun _ _ => rfl)
    (fun f s h => (dispatch_writesOnlyFor f now s).linkIsUp h) f s

theorem dispatch_lastChannelsFrameTime (f : Frame) (now : Time) (s : State) :
    (dispatch f now s).lastChannelsFrameTime = recordAfter 0x16 (channelsMark now) [f] s.lastChannelsFrameTime :=
  dispatch_field (get := State.lastChannelsFrameTime) (n := 22) rfl (fun _ => channelsMark_isSome_iff)
    (fun _ _ _ h => (channelsMark_eq_some h).symm) (fun _ _ => rfl)
    (fun f s h => (dispatch_writesOnlyFor f now s).lastChannelsFrameTime h) f s

theorem dispatch_battery (f : Frame) (now : Time) (s : State) :
    (dispatch f now s).battery = recordAfter 0x08 batteryRecord [f] s.battery :=
  dispatch_field (get := State.battery) (n := 8) rfl (fun _ => batteryRecord_isSome_iff)
    (fun _ _ s h => congrArg State.battery (runDecoder_battery (batteryOf_of_batteryRecord h) now s)) (fun _ _ => rfl)
    (fun f s => (dispatch_writesOnlyFor f now s).battery) f s

theorem dispatch_gps (f : Frame) (now : Time) (s : State) :
    (dispatch f now s).gps = recordAfter 0x02 gpsRecord [f] s.gps :=
  dispatch_field (get := State.gps) (n := 15) rfl (fun _ => gpsRecord_isSome_iff)
    (fun _ _ s h => congrArg State.gps (runDecoder_gps (gpsOf_of_gpsRecord h) now s)) (fun _ _ => rfl)
    (fun f s => (dispatch_writesOnlyFor f now s).gps) f s

theorem dispatch_vario (f : Frame) (now : Time) (s : State) :
    (dispatch f now s).vario = recordAfter 0x07 varioRecord [f] s.vario :=
  dispatch_field (get := State.vario) (n := 2) rfl (fun _ => varioRecord_isSome_iff)
    (fun _ _ s h => congrArg State.vario (runDecoder_vario (varioOf_of_varioRecord h) now s)) (fun _ _ => rfl)
    (fun f s => (dispatch_writesOnlyFor f now s).vario) f s

theorem dispatch_baro (f : Frame) (now : Time) (s : State) :
    (dispatch f now s).baro = recordAfter 0x09 baroRecord [f] s.baro :=
  dispatch_field (get := State.baro) (n := 4) rfl (fun _ => baroRecord_isSome_iff)
    (fun _ _ s h => congrArg State.baro (runDecoder_baro (baroOf_of_baroRecord h) now s)) (fun _ _ => rfl)
    (fun f s => (dispatch_writesOnlyFor f now s).baro) f s

theorem dispatch_attitude (f : Frame) (now : Time) (s : State) :
    (dispatch f now s).attitude = recordAfter 0x1E attitudeRecord [f] s.attitude :=
  dispatch_field (get := State.attitude) (n := 6) rfl (fun _ => attitudeRecord_isSome_iff)
    (fun _ _ s h => congrArg State.attitude (runDecoder_attitude (attitudeOf_of_attitudeRecord h) now s))
    (fun _ _ => rfl) (fun f s => (dispatch_writesOnlyFor f now s).attitude) f s

theorem dispatch_linkStats (f : Frame) (now : Time) (s : State) :
    (dispatch f now s).linkStats = recordAfter 0x14 linkStatsRecord [f] s.linkStats :=
  dispatch_field (get := State.linkStats) (n := 10) rfl (fun _ => linkStatsRecord_isSome_iff)
    (fun _ _ s h => congrArg State.linkStats (runDecoder_linkStats (linkStatsOf_of_linkStatsRecord h) now s))
    (fun _ _ => rfl) (fun f s => (dispatch_writesOnlyFor f now s).linkStats) f s

/-! ### A sequence of frames -/

theorem recordAfter_append {R : Type} (type : Byte) (decoded : List Byte → Option R) (found found' : List Frame)
    (r : R) :
    recordAfter type decoded (found ++ found') r =
      recordAfter type decoded found' (recordAfter type decoded found r) :=
  List.foldl_append

/-- The outputs and the telemetry records of `t` are those of `s` after these frames were found, and what the host has
still to invoke is as it was. The trace grows by anything but an overflow reset. -/
structure Delivers (found : List Frame) (s t : State) : Prop where
  events : t.events = s.events ++ found
  trace : ∃ new, t.trace = s.trace ++ new ∧ ∀ lost, TraceEntry.eOvf lost ∉ new
  battery : t.battery = recordAfter 0x08 batteryRecord found s.battery
  gps : t.gps = recordAfter 0x02 gpsRecord found s.gps
  vario : t.vario = recordAfter 0x07 varioRecord found s.vario
  baro : t.baro = recordAfter 0x09 baroRecord found s.baro
  attitude : t.attitude = recordAfter 0x1E attitudeRecord found s.attitude
  linkStats : t.linkStats = recordAfter 0x14 linkStatsRecord found s.linkStats
  stream : t.stream = s.stream
  port : t.port = s.port

/-- Beside its buffer, its result and the outputs, `t` is what these valid frames, found at one clock reading, make of
`s`. -/
structure Finds (T : CrcTable) (now : Time) (found : List Frame) (s t : State) : Prop extends Delivers found s t where
  valid : ∀ f ∈ found, f.valid T = true
  lastReceiveTime : t.lastReceiveTime = s.lastReceiveTime
  lastChannelsFrameTime : t.lastChannelsFrameTime = recordAfter 0x16 (channelsMark now) found s.lastChannelsFrameTime
  linkIsUp : t.linkIsUp = recordAfter 0x16 (channelsMark true) found s.linkIsUp

theorem Delivers.trans (h : Delivers found s t) (h' : Delivers found' t u) : Delivers (found ++ found') s u where
  events := by rw [h'.events, h.events, List.append_assoc]
  trace := by
    obtain ⟨new, hnew, hovf⟩ := h.trace
    obtain ⟨new', hnew', hovf'⟩ := h'.trace
    refine ⟨new ++ new', by rw [hnew', hnew, List.append_assoc], fun lost hmem => ?_⟩
    exact (List.mem_append.1 hmem).elim (hovf lost) (hovf' lost)
  battery := by rw [h'.battery, h.battery, recordAfter_append]
  gps := by rw [h'.gps, h.gps, recordAfter_append]
  vario := by rw [h'.vario, h.vario, recordAfter_append]
  baro := by rw [h'.baro, h.baro, recordAfter_append]
  attitude := by rw [h'.attitude, h.attitude, recordAfter_append]
  linkStats := by rw [h'.linkStats, h.linkStats, recordAfter_append]
  stream := h'.stream.trans h.stream
  port := h'.port.trans h.port

theorem Finds.trans (h : Finds T now found s t) (h' : Finds T now found' t u) : Finds T now (found ++ found') s u where
  toDelivers := h.toDelivers.trans h'.toDelivers
  valid f hf := (List.mem_append.1 hf).elim (h.valid f) (h'.valid f)
  lastReceiveTime := h'.lastReceiveTime.trans h.lastReceiveTime
  lastChannelsFrameTime := by rw [h'.lastChannelsFrameTime, h.lastChannelsFrameTime, recordAfter_append]
  linkIsUp := by rw [h'.linkIsUp, h.linkIsUp, recordAfter_append]

/-- Nothing found: the records, the link state and the events are as they were. -/
theorem delivers_nil (he : t.events = s.events)
    (htrace : ∃ new, t.trace = s.trace ++ new ∧ ∀ lost, TraceEntry.eOvf lost ∉ new)
    (hb : t.battery = s.battery) (hg : t.gps = s.gps) (hv : t.vario = s.vario) (hbaro : t.baro = s.baro)
    (ha : t.attitude = s.attitude) (hl : t.linkStats = s.linkStats) (hs : t.stream = s.stream) (hp : t.port = s.port) :
    Delivers [] s t :=
  ⟨by rw [he, List.append_nil], htrace, hb, hg, hv, hbaro, ha, hl, hs, hp⟩

theorem exists_trace_self (s : State) : ∃ new, s.trace = s.trace ++ new ∧ ∀ lost, TraceEntry.eOvf lost ∉ new :=
  ⟨[], (List.append_nil _).symm, fun _ => List.not_mem_nil⟩

theorem Finds.refl (T : CrcTable) (now : Time) (s : State) : Finds T now [] s s :=
  ⟨delivers_nil rfl (exists_trace_self s) rfl rfl rfl rfl rfl rfl rfl rfl, nofun, rfl, rfl, rfl⟩

theorem shift_finds (T : CrcTable) (now : Time) (n : Nat) (s : State) : Finds T now [] s (shift n s) :=
  ⟨delivers_nil rfl (exists_trace_self s) rfl rfl rfl rfl rfl rfl rfl rfl, nofun, rfl, rfl, rfl⟩

theorem giveResult_finds (T : CrcTable) (now : Time) (r : OpResult) (s : State) : Finds T now [] s (giveResult r s) :=
  ⟨delivers_nil rfl (exists_trace_self s) rfl rfl rfl rfl rfl rfl rfl rfl, nofun, rfl, rfl, rfl⟩

theorem record_finds {e : TraceEntry} (h : ∀ lost, e ≠ .eOvf lost) (T : CrcTable) (now : Time) (s : State) :
    Finds T now [] s (record e s) :=
  have htrace : ∃ new, (record e s).trace = s.trace ++ new ∧ ∀ lost, TraceEntry.eOvf lost ∉ new :=
    ⟨[e], rfl, fun lost hmem => h lost (List.mem_singleton.1 hmem).symm⟩
  ⟨delivers_nil rfl htrace rfl rfl rfl rfl rfl rfl rfl rfl, nofun, rfl, rfl, rfl⟩

theorem frameFound_delivers (f : Frame) (now : Time) (s : State) : Delivers [f] s (frameFound f now s) where
  events := frameFound_events f now
  trace := by
    obtain ⟨why, hwhy, hreason⟩ := frameFound_trace f now s
    refine ⟨_, hwhy, fun lost hmem => ?_⟩
    rcases List.mem_cons.1 hmem with h | h
    · cases h
    · rcases hreason _ h with h | h | h <;> cases h
  battery := dispatch_battery f now (emit f s)
  gps := dispatch_gps f now (emit f s)
  vario := dispatch_vario f now (emit f s)
  baro := dispatch_baro f now (emit f s)
  attitude := dispatch_attitude f now (emit f s)
  linkStats := dispatch_linkStats f now (emit f s)
  stream := frameFound_stream f now
  port := frameFound_port f now

theorem frameFound_finds (h : f.valid T = true) (now : Time) (s : State) : Finds T now [f] s (frameFound f now s) where
  toDelivers := frameFound_delivers f now s
  valid := by rintro g hg; rwa [List.mem_singleton.1 hg]
  lastReceiveTime := frameFound_lastReceiveTime f now
  lastChannelsFrameTime := dispatch_lastChannelsFrameTime f now (emit f s)
  linkIsUp := dispatch_linkIsUp f now (emit f s)

/-! ### Actions, evaluations and the flush -/

theorem act_finds {s' : State} (h : act now s (front p s) = some s') : ∃ found, Finds p.crcTable now found s s' := by
  rcases act_cases h with ⟨e, rfl, he⟩ | ⟨f, -, hv, -, rfl⟩
  · exact ⟨_, (record_finds he _ _ s).trans (shift_finds _ _ 1 _)⟩
  · exact ⟨_, (frameFound_finds hv now s).trans (shift_finds _ _ _ _)⟩

theorem flushOne_finds (T : CrcTable) (now : Time) (s : State) : Finds T now [] s (flushOne s) := by
  unfold flushOne
  split
  · exact .refl T now s
  · exact (record_finds (e := .flushDiscard) nofun T now s).trans (shift_finds T now 1 _)

theorem finds_action (s : State) : KeptByActions p now (fun u => ∃ found, Finds p.crcTable now found s u) := by
  rintro u u' ⟨found, h⟩ - hact
  obtain ⟨found', h'⟩ := act_finds hact
  exact ⟨_, h.trans h'⟩

theorem finds_record (s : State) : KeptByRecords (fun u => ∃ found, Finds T now found s u) := by
  rintro u e he ⟨found, h⟩
  exact ⟨_, h.trans (record_finds he T now u)⟩

theorem finds_flushOne (s : State) :
    ∀ u, (∃ found, Finds T now found s u) → ∃ found, Finds T now found s (flushOne u) := by
  rintro u ⟨found, h⟩
  exact ⟨_, h.trans (flushOne_finds T now u)⟩

theorem evaluate_finds (p : Params) (now : Time) (s : State) :
    ∃ found, Finds p.crcTable now found s (evaluate p now s).2 :=
  evaluate_keeps (finds_action s) (finds_record s) ⟨[], .refl _ now s⟩

theorem timeoutFlush_finds (p : Params) (now : Time) (s : State) :
    ∃ found, Finds p.crcTable now found s (timeoutFlush p now s) :=
  timeoutFlush_keeps (finds_action s) (finds_record s) (finds_flushOne s) ⟨[], .refl _ now s⟩

/-- Neither an evaluation nor the flush gives a result. -/
theorem result_action (r : OpResult) : KeptByActions p now (fun u => u.result = r) := by
  intro u u' hu _ hact
  rcases act_cases hact with ⟨e, rfl, -⟩ | ⟨f, -, -, -, rfl⟩
  · exact hu
  · exact (frameFound_result f now).trans hu

theorem result_record (r : OpResult) : KeptByRecords (fun u => u.result = r) := fun _ _ _ h => h

theorem flushOne_result (s : State) : (flushOne s).result = s.result := by
  unfold flushOne
  split <;> rfl

theorem evaluate_result (p : Params) (now : Time) (s : State) : (evaluate p now s).2.result = s.result :=
  evaluate_keeps (P := fun u => u.result = s.result) (result_action _) (result_record _) rfl

theorem timeoutFlush_result (p : Params) (now : Time) (s : State) : (timeoutFlush p now s).result = s.result :=
  timeoutFlush_keeps (P := fun u => u.result = s.result) (result_action _) (result_record _)
    (fun u hu => (flushOne_result u).trans hu) rfl

/-! ### Instructions -/

/-- Every way an instruction can complete: RESET, an answer to the caller, RX_BYTE, POLL, or an inbound row. -/
theorem execWith_cases (h : execWith p i s = .next t) :
    (i = .reset ∧ execReset s = .next t) ∨
    ((∃ r, t = giveResult r s) ∧ ∀ now, i ≠ .poll now) ∨
    (∃ b now s1, i = .rxByte b now ∧ append b now (giveResult .nothing s) = .ok s1 ∧ t = (evaluate p now s1).2 ∧
      t.cursor < capacity) ∨
    (∃ now, i = .poll now ∧ t = poll p now (giveResult .nothing s)) ∨
    (∃ f now, i.port = .inbound now ∧ (i.wellFormed = true → f.valid p.crcTable = true) ∧
      t = giveResult .nothing (frameFound f now s)) := by
  cases i with
  | reset => exact .inl ⟨rfl, h⟩
  | encChannels | encCommand | crc8 | unpackChannels | frameChannelsOut | frameCommandOut =>
    cases h; exact .inr (.inl ⟨⟨_, rfl⟩, nofun⟩)
  | rxByte b now =>
    obtain ⟨s1, happ, ht, hc⟩ := rxByte_ok (execRxByteWith_eq_next h)
    exact .inr (.inr (.inl ⟨b, now, s1, rfl, happ, ht, hc⟩))
  | poll now => cases h; exact .inr (.inr (.inr (.inl ⟨now, rfl, rfl⟩)))
  | reserved07 | reserved08 | reserved10 | reserved20 | reserved40 | reserved80 => cases h
  | frameChannelsIn payload now | frameBattery payload now | frameGps payload now | frameVario payload now
  | frameBaro payload now | frameAttitude payload now | frameLinkStats payload now =>
    cases h
    refine .inr (.inr (.inr (.inr ⟨_, now, rfl, fun hw => ?_, rfl⟩)))
    obtain ⟨hmin, hmax⟩ := (payloadLenOk_iff payload).1 hw
    exact Frame.build_valid _ _ hmin hmax
  | frameOtherIn deviceAddr type payload now =>
    cases h
    refine .inr (.inr (.inr (.inr ⟨_, now, rfl, fun hw => ?_, rfl⟩)))
    obtain ⟨hmin, hmax⟩ := (payloadLenOk_iff payload).1 (Bool.and_eq_true_iff.1 hw).1
    exact Frame.build_valid _ _ hmin hmax

/-- An append that does not fault finds nothing; beside the buffer it records the arrival time. -/
theorem append_delivers {b : Byte} (h : append b now s = .ok t) : Delivers [] s t := by
  obtain ⟨-, -, buf, rfl⟩ := append_ok h
  exact delivers_nil rfl (exists_trace_self s) rfl rfl rfl rfl rfl rfl rfl rfl

theorem failsafeCheck_delivers (p : Params) (now : Time) (s : State) : Delivers [] s (failsafeCheck p now s) := by
  obtain ⟨up, h⟩ := failsafeCheck_frame p now s
  rw [h]
  exact delivers_nil rfl (exists_trace_self s) rfl rfl rfl rfl rfl rfl rfl rfl

/-- Every instruction but RESET makes of the outputs and the records what some found frames make of them. -/
theorem execWith_delivers (hi : i ≠ .reset) (h : execWith p i s = .next t) : ∃ found, Delivers found s t := by
  have hgive r : Delivers [] s (giveResult r s) := (giveResult_finds p.crcTable 0 r s).toDelivers
  rcases execWith_cases h with ⟨rfl, -⟩ | ⟨⟨r, rfl⟩, -⟩ | ⟨b, now, s1, -, happ, rfl, -⟩ | ⟨now, -, rfl⟩ |
    ⟨f, now, -, -, rfl⟩
  · exact absurd rfl hi
  · exact ⟨_, hgive r⟩
  · obtain ⟨found, hfound⟩ := evaluate_finds p now s1
    exact ⟨_, ((hgive _).trans (append_delivers happ)).trans hfound.toDelivers⟩
  · obtain ⟨found, hfound⟩ := timeoutFlush_finds p now (giveResult .nothing s)
    exact ⟨_, ((hgive _).trans hfound.toDelivers).trans (failsafeCheck_delivers p now _)⟩
  · exact ⟨_, (frameFound_delivers f now s).trans (giveResult_finds p.crcTable now _ _).toDelivers⟩

theorem exec_delivers (hi : i ≠ .reset) (h : exec i s = .next t) : ∃ found, Delivers found s t :=
  execWith_delivers (p := Config.params) hi ((execWith_params i s).trans h)

/-- Settles O44: the records are carried through every frame found, and nothing else writes one. -/
theorem recordsAreWrittenWholesaleByTheirFrames : Obligations.RecordsAreWrittenWholesaleByTheirFrames := by
  intro i s t hi h
  obtain ⟨found, hd⟩ := exec_delivers hi h
  exact ⟨found, hd.events, hd.battery, hd.gps, hd.vario, hd.baro, hd.attitude, hd.linkStats⟩

/-- Settles O46: RESET empties the outputs and leaves the stream; everything else delivers found frames. -/
theorem outputsOnlyGrow : Obligations.OutputsOnlyGrow := by
  intro i s t h
  by_cases hi : i = .reset
  · subst hi
    cases h
    exact ⟨rfl, rfl, .inl ⟨rfl, rfl⟩⟩
  · obtain ⟨found, hd⟩ := exec_delivers hi h
    obtain ⟨new, hnew, -⟩ := hd.trace
    exact ⟨hd.stream, hd.port, .inr ⟨⟨found, hd.events.symm⟩, ⟨new, hnew.symm⟩⟩⟩

/-- Settles O35: a valid frame is the one its address, type and payload give, with the checksum by the generating
rule. -/
theorem everyNewEventIsAValidFrame : Obligations.EveryNewEventIsAValidFrame := by
  intro s t f hstep hf
  refine (step_newEventsValid hstep f hf).imp_right fun hv => ?_
  rw [← build_eq_wireFrame]
  exact ⟨Frame.eq_build hv, Frame.payload_bounds hv⟩

end Sys2Proof.Machine
end

section
/-! The link state and the timestamps (44_link_state.md; 10_state.md section 3), the invariant in an instance of any
parameters (42_reassembler.md section 4), and what RX_BYTE and POLL keep and bound (42_reassembler.md sections 3, 4). -/

namespace Sys2Proof.Machine

open Sys2Proof.Spec

variable {p : Params} {i : Instr} {now : Time} {s t u : State} {T : CrcTable} {f : Frame} {found : List Frame}

/-! ### The channels frames of a sequence -/

/-- A frame the dispatcher takes for channels, whatever its checksum (43_dispatcher.md R180, R187). -/
abbrev CarriesChannels (f : Frame) : Prop := f.deviceAddr = 0xEA ∧ f.type = 0x16 ∧ 22 ≤ f.payload.length

theorem recordAfter_channelsMark_singleton {R : Type} (mark r : R) (f : Frame) :
    recordAfter 0x16 (channelsMark mark) [f] r = if CarriesChannels f then mark else r := by
  change (if f.deviceAddr = 0xEA ∧ f.type = 0x16 then (channelsMark mark f.payload).getD r else r) = _
  by_cases hrow : f.deviceAddr = 0xEA ∧ f.type = 0x16
  · by_cases hl : 22 ≤ f.payload.length <;> simp [CarriesChannels, channelsMark, hrow, hl]
  · rw [if_neg hrow, if_neg fun h => hrow ⟨h.1, h.2.1⟩]

theorem recordAfter_channelsMark_self {R : Type} (mark : R) (found : List Frame) :
    recordAfter 0x16 (channelsMark mark) found mark = mark := by
  induction found with
  | nil => rfl
  | cons f found ih =>
    rw [← List.singleton_append, recordAfter_append, recordAfter_channelsMark_singleton, ite_self, ih]

theorem recordAfter_channelsMark_of_mem {R : Type} (mark r : R) (hf : f ∈ found) (h : CarriesChannels f) :
    recordAfter 0x16 (channelsMark mark) found r = mark := by
  obtain ⟨before, after, rfl⟩ := List.append_of_mem hf
  rw [recordAfter_append, ← List.singleton_append, recordAfter_append, recordAfter_channelsMark_singleton, if_pos h,
    recordAfter_channelsMark_self]

theorem recordAfter_channelsMark_of_forall_not {R : Type} (mark r : R) (h : ∀ f ∈ found, ¬ CarriesChannels f) :
    recordAfter 0x16 (channelsMark mark) found r = r := by
  induction found generalizing r with
  | nil => rfl
  | cons f found ih =>
    obtain ⟨hf, hrest⟩ := List.forall_mem_cons.1 h
    rw [← List.singleton_append, recordAfter_append, recordAfter_channelsMark_singleton, if_neg hf, ih r hrest]

/-! ### The fail-safe -/

theorem elapsedMs_eq (now t : Time) : elapsedMs now t = (elapsed now t).toNat := (elapsed_toNat now t).symm

theorem elapsedMs_self (t : Time) : elapsedMs t t = 0 := by
  rw [elapsedMs_eq, elapsed, BitVec.sub_self]
  rfl

/-- The fail-safe check leaves the link up where it was up and no more than FAILSAFE has elapsed (44_link_state.md
R221). -/
theorem failsafeCheck_eq (p : Params) (now : Time) (s : State) :
    failsafeCheck p now s = { s with
      linkIsUp := s.linkIsUp && !decide (p.failsafe.toNat < elapsedMs now s.lastChannelsFrameTime) } := by
  rw [elapsedMs_eq]
  rcases failsafeCheck_cases p now s with ⟨h, hkeep⟩ | ⟨h, hup, hlt⟩
  · rw [h]
    cases hup : s.linkIsUp with
    | false => rw [Bool.false_and, ← hup]
    | true => rw [decide_eq_false (hkeep hup), Bool.not_false, Bool.and_true, ← hup]
  · rw [h, decide_eq_true hlt, Bool.not_true, Bool.and_false]

/-! ### The link state after an instruction -/

/-- The instruction's clock reading is `now`, and it is one that can find a frame. -/
abbrev ReadsClock (i : Instr) (now : Time) : Prop := (∃ b, i = .rxByte b now) ∨ i = .poll now ∨ i.port = .inbound now

/-- What an instruction that finds these frames makes of the link state: a channels frame among them stamps its time and
leaves the link up; without one only POLL touches it, by the fail-safe. -/
structure LinkAfter (p : Params) (i : Instr) (now : Time) (found : List Frame) (s t : State) : Prop where
  events : t.events = s.events ++ found
  valid : ∀ f ∈ found, f.valid p.crcTable = true
  seen : ∀ f ∈ found, CarriesChannels f →
    t.linkIsUp = true ∧ t.lastChannelsFrameTime = now ∧ ReadsClock i now
  time : (∀ f ∈ found, ¬ CarriesChannels f) → t.lastChannelsFrameTime = s.lastChannelsFrameTime
  poll : (∀ f ∈ found, ¬ CarriesChannels f) → ∀ now, i = .poll now →
    t.linkIsUp = (s.linkIsUp && !decide (p.failsafe.toNat < elapsedMs now s.lastChannelsFrameTime))
  other : (∀ f ∈ found, ¬ CarriesChannels f) → (∀ now, i ≠ .poll now) → t.linkIsUp = s.linkIsUp

/-- Frames found by anything but POLL act on the link state by themselves. -/
theorem Finds.linkAfter (h : Finds p.crcTable now found s t) (hclock : ReadsClock i now) (hi : ∀ now, i ≠ .poll now) :
    LinkAfter p i now found s t where
  events := h.events
  valid := h.valid
  seen f hf hc := ⟨by rw [h.linkIsUp, recordAfter_channelsMark_of_mem _ _ hf hc],
    by rw [h.lastChannelsFrameTime, recordAfter_channelsMark_of_mem _ _ hf hc], hclock⟩
  time hnone := by rw [h.lastChannelsFrameTime, recordAfter_channelsMark_of_forall_not _ _ hnone]
  poll _ now hpoll := absurd hpoll (hi now)
  other hnone _ := by rw [h.linkIsUp, recordAfter_channelsMark_of_forall_not _ _ hnone]

/-- After the frames POLL finds the fail-safe is judged, and at the same clock reading it leaves a channels frame's
mark. -/
theorem Finds.linkAfter_poll (h : Finds p.crcTable now found s t) :
    LinkAfter p (.poll now) now found s (failsafeCheck p now t) := by
  rw [failsafeCheck_eq]
  refine ⟨h.events, h.valid, fun f hf hc => ?seen, fun hnone => ?time, fun hnone now' hnow => ?poll,
    fun _ hi => absurd rfl (hi now)⟩
  case seen =>
    have hup : t.linkIsUp = true := by rw [h.linkIsUp, recordAfter_channelsMark_of_mem _ _ hf hc]
    have htime : t.lastChannelsFrameTime = now := by
      rw [h.lastChannelsFrameTime, recordAfter_channelsMark_of_mem _ _ hf hc]
    refine ⟨?_, htime, .inr (.inl rfl)⟩
    rw [hup, htime, elapsedMs_self]
    rfl
  case time =>
    change t.lastChannelsFrameTime = _
    rw [h.lastChannelsFrameTime, recordAfter_channelsMark_of_forall_not _ _ hnone]
  case poll =>
    cases hnow
    rw [h.linkIsUp, h.lastChannelsFrameTime, recordAfter_channelsMark_of_forall_not _ _ hnone,
      recordAfter_channelsMark_of_forall_not _ _ hnone]

/-- Every instruction but RESET moves the link state as `LinkAfter` says. -/
theorem execWith_linkAfter (hw : i.wellFormed = true) (hi : i ≠ .reset) (h : execWith p i s = .next t) :
    ∃ now found, LinkAfter p i now found s t := by
  rcases execWith_cases h with ⟨rfl, -⟩ | ⟨⟨r, rfl⟩, hpoll⟩ | ⟨b, now, s1, rfl, happ, rfl, -⟩ | ⟨now, rfl, rfl⟩ |
    ⟨f, now, hport, hv, rfl⟩
  · exact absurd rfl hi
  · exact ⟨0, [], (List.append_nil _).symm, nofun, nofun, fun _ => rfl, fun _ now hnow => absurd hnow (hpoll now),
      fun _ _ => rfl⟩
  · obtain ⟨found, hfound⟩ := evaluate_finds p now s1
    obtain ⟨-, -, buf, rfl⟩ := append_ok happ
    obtain ⟨he, hvalid, hseen, htime, hpoll, hother⟩ := hfound.linkAfter (i := .rxByte b now) (.inl ⟨b, rfl⟩) nofun
    exact ⟨now, found, he, hvalid, hseen, htime, hpoll, hother⟩
  · obtain ⟨found, hfound⟩ := timeoutFlush_finds p now (giveResult .nothing s)
    exact ⟨now, found, ((giveResult_finds _ now _ s).trans hfound).linkAfter_poll⟩
  · have hfound := (frameFound_finds (hv hw) now s).trans (giveResult_finds _ now .nothing _)
    exact ⟨now, [f], hfound.linkAfter (.inr (.inr hport)) fun now' hnow => by rw [hnow] at hport; cases hport⟩

/-- Settles O42: RESET aside, an operation moves the link state by the frames it finds and, where it is POLL, by the
fail-safe; the frames an operation finds are the new events. -/
theorem linkStateMovesOnlyByChannelsFramesAndFailsafe : Obligations.LinkStateMovesOnlyByChannelsFramesAndFailsafe := by
  refine ⟨rfl, fun p i s t hw h => ?_⟩
  by_cases hi : i = .reset
  · subst hi
    cases h
    refine ⟨nofun, fun found f he hf => ?_, fun _ _ => .inl rfl, nofun⟩
    have hnil : found = [] := (List.append_eq_nil_iff.1 he.symm).2
    rw [hnil] at hf
    cases hf
  · obtain ⟨now, found, hlink⟩ := execWith_linkAfter hw hi h
    have heq {found'} (he : t.events = s.events ++ found') : found' = found :=
      List.append_cancel_left (he.symm.trans hlink.events)
    have hnone_of_down (hdown : t.linkIsUp = false) : ∀ f ∈ found, ¬ CarriesChannels f := fun f hf hc => by
      rw [(hlink.seen f hf hc).1] at hdown; cases hdown
    refine ⟨fun hdown hup => ?up, fun found' f he hf hacc => ?seen, fun hup hdown => ?down,
      fun now' found' hpoll he hnone => ?poll⟩
    case up =>
      refine ⟨found, ?_⟩
      by_contra hno
      have hnone : ∀ f ∈ found, ¬ CarriesChannels f := fun f hf hc =>
        hno ⟨f, hlink.events, hf, hlink.valid f hf, hc⟩
      by_cases hpoll : ∃ now, i = .poll now
      · obtain ⟨now', hpoll⟩ := hpoll
        rw [hlink.poll hnone now' hpoll, hdown] at hup
        cases hup
      · rw [hlink.other hnone (not_exists.1 hpoll), hdown] at hup
        cases hup
    case seen =>
      rw [heq he] at hf
      obtain ⟨hup, htime, hclock⟩ := hlink.seen f hf hacc.2
      rw [htime]
      exact ⟨hup, hclock⟩
    case down =>
      have hnone := hnone_of_down hdown
      by_cases hpoll : ∃ now, i = .poll now
      · obtain ⟨now', hpoll⟩ := hpoll
        rw [hlink.poll hnone now' hpoll, hup] at hdown
        exact .inr ⟨now', hpoll, by simpa using hdown⟩
      · rw [hlink.other hnone (not_exists.1 hpoll), hup] at hdown
        cases hdown
    case poll =>
      rw [heq he] at hnone
      exact hlink.poll (fun f hf hc => hnone f hf ⟨hlink.valid f hf, hc⟩) now' hpoll

/-! ### The timestamps -/

theorem failsafeCheck_lastReceiveTime (p : Params) (now : Time) (s : State) :
    (failsafeCheck p now s).lastReceiveTime = s.lastReceiveTime := by
  rw [failsafeCheck_eq]

theorem poll_lastReceiveTime (p : Params) (now : Time) (s : State) :
    (poll p now s).lastReceiveTime = s.lastReceiveTime := by
  obtain ⟨found, hfound⟩ := timeoutFlush_finds p now s
  rw [poll, failsafeCheck_lastReceiveTime, hfound.lastReceiveTime]

/-- Only RX_BYTE writes the arrival time, with its clock reading (10_state.md R36). -/
theorem execWith_lastReceiveTime (hi : i ≠ .reset) (h : execWith p i s = .next t) :
    t.lastReceiveTime = s.lastReceiveTime ∨ ∃ b, i = .rxByte b t.lastReceiveTime := by
  rcases execWith_cases h with ⟨rfl, -⟩ | ⟨⟨r, rfl⟩, -⟩ | ⟨b, now, s1, rfl, happ, rfl, -⟩ | ⟨now, -, rfl⟩ |
    ⟨f, now, -, -, rfl⟩
  · exact absurd rfl hi
  · exact .inl rfl
  · obtain ⟨found, hfound⟩ := evaluate_finds p now s1
    obtain ⟨-, -, buf, rfl⟩ := append_ok happ
    exact .inr ⟨b, by rw [hfound.lastReceiveTime]⟩
  · exact .inl (poll_lastReceiveTime p now _)
  · exact .inl (frameFound_lastReceiveTime f now)

/-- Settles O43: the arrival time by its one writer, the channels time by the channels frames among those found. -/
theorem timestampsAreWrittenOnlyByTheirRules : Obligations.TimestampsAreWrittenOnlyByTheirRules := by
  intro i s t hw hi h
  rw [← execWith_params] at h
  refine ⟨execWith_lastReceiveTime hi h, ?_⟩
  obtain ⟨now, found, hlink⟩ := execWith_linkAfter hw hi h
  by_cases hsome : ∃ f ∈ found, CarriesChannels f
  · obtain ⟨f, hf, hc⟩ := hsome
    obtain ⟨-, htime, hclock⟩ := hlink.seen f hf hc
    rw [htime]
    exact .inr ⟨⟨found, f, hlink.events, hf, hlink.valid f hf, hc⟩, hclock⟩
  · exact .inl (hlink.time fun f hf hc => hsome ⟨f, hf, hc⟩)

/-! ### The invariant -/

/-- A well-formed instruction keeps the invariant of its instance's table. -/
theorem execWith_invariant (hw : i.wellFormed = true) (hs : Invariant s p.crcTable) (h : execWith p i s = .next t) :
    Invariant t p.crcTable := by
  obtain ⟨hc, hevents⟩ := hs
  refine ⟨?cursor, ?events⟩
  case cursor =>
    rcases execWith_cases h with ⟨-, hreset⟩ | ⟨⟨r, rfl⟩, -⟩ | ⟨b, now, s1, -, -, -, hlt⟩ | ⟨now, -, rfl⟩ |
      ⟨f, now, -, -, rfl⟩
    · cases hreset; exact Nat.zero_lt_succ _
    · exact hc
    · exact hlt
    · exact Nat.lt_of_le_of_lt (poll_cursor_le p now (giveResult .nothing s)) hc
    · exact (frameFound_cursor f now).trans_lt hc
  case events =>
    by_cases hi : i = .reset
    · subst hi; cases h; exact nofun
    · obtain ⟨now, found, hlink⟩ := execWith_linkAfter hw hi h
      rw [hlink.events]
      exact List.forall_mem_append.2 ⟨hevents, hlink.valid⟩

/-- A step is idle or runs a well-formed instruction, so it keeps the invariant. -/
theorem stepWith_invariant (hs : Invariant s p.crcTable) (h : stepWith p s = .next t) : Invariant t p.crcTable := by
  rcases fetchAndRun_eq_next h with ⟨-, -, rfl⟩ | ⟨i, rest, hd, hrun⟩
  · exact hs
  · exact execWith_invariant (s := s.fetched rest) (decode_spells hd).1 hs hrun

/-- Settles O49: the instance with the parameters of Config. -/
theorem stepKeepsTheInvariant : Obligations.StepKeepsTheInvariant := fun s _ hs h =>
  stepWith_invariant (p := Config.params) hs ((stepWith_params s).trans h)

/-- Settles O52: completion needs the invariant's room in the buffer only, and what completes keeps it. -/
theorem everyInstanceCompletesAndKeepsTheInvariant : Obligations.EveryInstanceCompletesAndKeepsTheInvariant := by
  refine ⟨fun p i s hw hi hs => ?_, fun p s t hs h => stepWith_invariant hs h⟩
  obtain ⟨t, ht⟩ := execWith_completes (p := p) i hs.1 hi
  exact ⟨t, ht, execWith_invariant hw hs ht⟩

/-! ### RX_BYTE -/

/-- An evaluation finds no more frames than the actions it has left (42_reassembler.md R153). -/
theorem evaluateLoop_found_le (bound : Nat) {k : Nat} (hk : k ≤ p.reprocCap) :
    ∃ found, (evaluateLoop p now bound k s).2.events = s.events ++ found ∧ found.length + k ≤ p.reprocCap := by
  induction bound generalizing k s with
  | zero => exact ⟨[], (List.append_nil _).symm, by simpa using hk⟩
  | succ bound ih =>
    have hstop : ∃ found, s.events = s.events ++ found ∧ found.length + k ≤ p.reprocCap :=
      ⟨[], (List.append_nil _).symm, by simpa using hk⟩
    unfold evaluateLoop
    split
    · exact hstop
    · split
      · exact hstop
      · next hcap =>
        split
        · exact hstop
        · next s' hact =>
          obtain ⟨found, he, hl⟩ := ih (s := s') (k := k + 1) (by omega)
          rcases act_cases hact with ⟨e, rfl, -⟩ | ⟨f, -, -, -, rfl⟩
          · exact ⟨found, he, by omega⟩
          · refine ⟨f :: found, ?_, by rw [List.length_cons]; omega⟩
            rw [he, shift_events, frameFound_events, List.append_assoc]
            rfl

/-- RX_BYTE where the buffer has room: an append and an evaluation. -/
theorem execRxByteWith_eq {b : Byte} (hc : s.cursor < capacity) :
    ∃ s1, append b now (giveResult .nothing s) = .ok s1 ∧ execRxByteWith p b now s = .next (evaluate p now s1).2 := by
  obtain ⟨s1, happ, hrx⟩ := rxByte_of_lt (p := p) (b := b) (now := now) (s := giveResult .nothing s) hc
  exact ⟨s1, happ, congrArg ofRun hrx⟩

/-- Settles O29: the append records the arrival time and adds one byte; the evaluation drops bytes, takes the link up
only, and is bounded by the cap. -/
theorem rxByteCompletesAndIsBounded : Obligations.RxByteCompletesAndIsBounded := by
  intro b now s hs
  obtain ⟨s1, happ, hrx⟩ := execRxByteWith_eq (p := Config.params) (b := b) (now := now) hs.1
  obtain ⟨found, hfound⟩ := evaluate_finds Config.params now s1
  obtain ⟨found', he, hl⟩ := evaluateLoop_found_le (p := Config.params) (now := now) (s := s1) s1.cursor (Nat.zero_le _)
  have hcursor := evaluate_cursor_le Config.params now s1
  have hresult := evaluate_result Config.params now s1
  obtain ⟨-, -, buf, rfl⟩ := append_ok happ
  refine ⟨_, found', hrx, hfound.lastReceiveTime, hcursor, he, hl, fun hup => hfound.linkIsUp.trans ?_, hresult,
    hfound.stream, hfound.port⟩
  change recordAfter _ _ _ s.linkIsUp = true
  rw [hup, recordAfter_channelsMark_self]

/-- Settles O36: an evaluation leaves room for the next byte, so of RX_BYTE only the append and the evaluation act. -/
theorem overflowResetNeverFires : Obligations.OverflowResetNeverFires := by
  intro b now s hs
  obtain ⟨s1, happ, hrx⟩ := execRxByteWith_eq (p := Config.params) (b := b) (now := now) hs.1
  obtain ⟨found, hfound⟩ := evaluate_finds Config.params now s1
  obtain ⟨new, hnew, hovf⟩ := ((append_delivers happ).trans hfound.toDelivers).trace
  exact ⟨_, new, hrx, hnew, hovf⟩

/-! ### POLL -/

/-- Settles O37: without a flush POLL is the fail-safe check. -/
theorem pollWithoutReceiveTimeoutOnlyChecksTheFailsafe :
    Obligations.PollWithoutReceiveTimeoutOnlyChecksTheFailsafe := by
  intro now s h
  rw [elapsedMs_eq] at h
  have hflush : timeoutFlush Config.params now (giveResult .nothing s) = giveResult .nothing s := timeoutFlush_of_not h
  have hpoll : poll Config.params now (giveResult .nothing s) =
      failsafeCheck Config.params now (giveResult .nothing s) := congrArg _ hflush
  exact congrArg Host.Outcome.next (hpoll.trans (failsafeCheck_eq Config.params now _))

theorem holds_nil (h : s.cursor = 0) : Holds s [] := ⟨h, by rw [State.held, h]; rfl⟩

theorem timeoutFlush_cursor_of_expired (h : p.rxTimeout.toNat < elapsedMs now s.lastReceiveTime) :
    (timeoutFlush p now s).cursor = 0 := by
  rw [elapsedMs_eq] at h
  exact (timeoutFlush_settles p now s).resolve_right fun hle => by omega

theorem failsafeCheck_cursor (p : Params) (now : Time) (s : State) : (failsafeCheck p now s).cursor = s.cursor := by
  rw [failsafeCheck_eq]

/-- Settles O39: the flush ends with the buffer empty, and it and the fail-safe check deliver found frames. -/
theorem pollAfterReceiveTimeoutEmptiesTheBuffer : Obligations.PollAfterReceiveTimeoutEmptiesTheBuffer := by
  intro p now s _ h
  obtain ⟨found, hfound⟩ := timeoutFlush_finds p now (giveResult .nothing s)
  have hd := hfound.toDelivers.trans (failsafeCheck_delivers p now _)
  refine ⟨_, rfl, holds_nil ?_, poll_lastReceiveTime p now _, ⟨_, hd.events.symm⟩, ?_, hd.stream, hd.port⟩
  · rw [poll, failsafeCheck_cursor]
    exact timeoutFlush_cursor_of_expired h
  · rw [poll, failsafeCheck_eq]
    exact timeoutFlush_result p now _

/-- The fail-safe check at the same clock reading has nothing more to do. -/
theorem failsafeCheck_idem (p : Params) (now : Time) (s : State) :
    failsafeCheck p now (failsafeCheck p now s) = failsafeCheck p now s := by
  rw [failsafeCheck_eq, failsafeCheck_eq, Bool.and_assoc, Bool.and_self]

/-- After POLL the receive timeout has not run out or the buffer is empty, so a flush does nothing. -/
theorem timeoutFlush_poll (p : Params) (now : Time) (s : State) : timeoutFlush p now (poll p now s) = poll p now s := by
  refine timeoutFlush_of_not ?_
  rw [poll_lastReceiveTime, poll, failsafeCheck_cursor]
  exact (timeoutFlush_settles p now s).imp_right And.right

theorem poll_idem (p : Params) (now : Time) (s : State) : poll p now (poll p now s) = poll p now s := by
  rw [poll, timeoutFlush_poll, poll, failsafeCheck_idem]

theorem poll_result (p : Params) (now : Time) (s : State) : (poll p now s).result = s.result := by
  rw [poll, failsafeCheck_eq]
  exact timeoutFlush_result p now s

theorem giveResult_of_eq {r : OpResult} (h : s.result = r) : giveResult r s = s := by
  rw [← h]; rfl

/-- Settles O41: POLL returns nothing already, and its body repeated changes nothing more. -/
theorem pollIsIdempotent : Obligations.PollIsIdempotent := by
  intro now s t h
  cases h
  have hresult : (poll Config.params now (giveResult .nothing s)).result = .nothing := poll_result _ _ _
  change Host.Outcome.next (poll Config.params now (giveResult .nothing _)) = _
  rw [giveResult_of_eq hresult, poll_idem]

end Sys2Proof.Machine
end

section
/-! RX_BYTE on the byte sequence the buffer holds (42_reassembler.md sections 2 to 4): the action on each kind of
candidate, a byte that is only appended, a byte that completes a frame, and frames fed back to back. -/

namespace Sys2Proof.Machine

open Sys2Proof.Spec

variable {p : Params} {now : Time} {s t u s' : State} {T : CrcTable} {f : Frame} {found : List Frame}
  {first size b : Byte} {bytes more rest : List Byte} {bound k : Nat}

/-! ### The action on a candidate -/

theorem act_badLength (h : Holds s (first :: size :: more)) (hs : sizeOk size = false) :
    act now s (front p s) = some (dropBadSize first size s) := by
  rw [front_of_badLength h hs]; rfl

theorem act_incomplete (h : Holds s (first :: size :: more)) (hs : sizeOk size = true) (hl : more.length < size.toNat) :
    act now s (front p s) = none := by
  rw [front_of_incomplete h hs hl]; rfl

theorem act_frame (h : Holds s (f.bytes ++ rest)) (hv : f.valid p.crcTable = true) :
    act now s (front p s) = some (shift (f.frameSize.toNat + 2) (frameFound f now s)) := by
  rw [front_of_frame h hv]; rfl

/-- The state after the action on a complete candidate with a wrong checksum: its record, and the first byte dropped. -/
def dropBadChecksum (T : CrcTable) (f : Frame) (s : State) : State :=
  shift 1 (record (.eCrc f.deviceAddr (crc8 f.body T) f.crc) s)

theorem act_badChecksum (h : Holds s (f.bytes ++ rest)) (hs : sizeOk f.frameSize = true)
    (hl : f.payload.length + 2 = f.frameSize.toNat) (hc : crc8 f.body p.crcTable ≠ f.crc) :
    act now s (front p s) = some (dropBadChecksum p.crcTable f s) := by
  rw [front_of_complete h hs hl, checkFrame, if_neg hc]; rfl

theorem holds_dropBadChecksum (h : Holds s bytes) : Holds (dropBadChecksum T f s) bytes.tail := by
  rw [← List.drop_one]
  exact holds_shift (s := record _ s) (holds_congr h rfl rfl) 1

theorem holds_shift_frameFound (h : Holds s (f.bytes ++ rest)) (hv : f.valid T = true) :
    Holds (shift (f.frameSize.toNat + 2) (frameFound f now s)) rest := by
  have hrest := holds_shift (holds_frameFound (f := f) (now := now) h) (f.frameSize.toNat + 2)
  rwa [List.drop_left' (Frame.length_bytes_of_valid hv)] at hrest

theorem evaluateLoop_of_act (hc : 2 ≤ s.cursor) (hk : k ≠ p.reprocCap) (h : act now s (front p s) = some s') :
    evaluateLoop p now (bound + 1) k s = evaluateLoop p now bound (k + 1) s' := by
  rw [evaluateLoop, if_neg (Nat.not_lt.2 hc), if_neg hk, h]

theorem evaluateLoop_of_act_none (hk : k ≠ p.reprocCap) (h : act now s (front p s) = none) :
    evaluateLoop p now bound k s = (.done, s) := by
  cases bound with
  | zero => rfl
  | succ bound =>
    rw [evaluateLoop, if_neg hk, h]
    exact ite_self _

theorem evaluateLoop_of_cap (hc : 2 ≤ s.cursor) :
    evaluateLoop p now (bound + 1) p.reprocCap s = (.capped, record (.eCap s.cursor) s) := by
  rw [evaluateLoop, if_neg (Nat.not_lt.2 hc), if_pos rfl]

theorem zero_ne_reprocCap (p : Params) : 0 ≠ p.reprocCap := (Nat.succ_ne_zero _).symm

theorem two_le_cursor_of_holds (h : Holds s (first :: size :: more)) : 2 ≤ s.cursor := by
  rw [h.1]; exact Nat.le_add_left _ _

theorem evaluate_of_incomplete (h : Holds s (first :: size :: more)) (hs : sizeOk size = true)
    (hl : more.length < size.toNat) : evaluate p now s = (.done, s) :=
  evaluateLoop_of_act_none (zero_ne_reprocCap p) (act_incomplete h hs hl)

/-- The evaluation of a buffer that holds exactly one valid frame: the frame is found and the buffer is empty. -/
theorem evaluate_of_frame (h : Holds s f.bytes) (hv : f.valid p.crcTable = true) :
    evaluate p now s = (.done, shift (f.frameSize.toNat + 2) (frameFound f now s)) := by
  have hframe : Holds s (f.bytes ++ []) := by rwa [List.append_nil]
  have hempty := (holds_shift_frameFound (now := now) hframe hv).1
  rw [evaluate, h.1, Frame.length_bytes, evaluateLoop_of_act (two_le_cursor_of_holds h) (zero_ne_reprocCap p)
    (act_frame hframe hv)]
  exact evaluateLoop_of_cursor_lt (by rw [hempty]; exact Nat.zero_lt_two)

/-! ### One byte -/

/-- The state in which RX_BYTE evaluates: the byte is in the buffer, its arrival time recorded, no result given. -/
def received (buf : Buffer) (now : Time) (s : State) : State :=
  { giveResult .nothing s with lastReceiveTime := now, buf := buf, cursor := s.cursor + 1 }

/-- RX_BYTE into a buffer with room is the evaluation of the bytes then held. -/
theorem execRxByteWith_of_holds (h : Holds s bytes) (hl : bytes.length < capacity) (b : Byte) :
    ∃ buf, Holds (received buf now s) (bytes ++ [b]) ∧
      execRxByteWith p b now s = .next (evaluate p now (received buf now s)).2 := by
  obtain ⟨s1, happ, hrx⟩ := execRxByteWith_eq (p := p) (b := b) (now := now) (s := s) (h.1.trans_lt hl)
  have h1 := holds_append (s := giveResult .nothing s) (holds_congr h rfl rfl) happ
  obtain ⟨-, -, buf, rfl⟩ := append_ok happ
  exact ⟨buf, h1, hrx⟩

/-- A candidate that is not complete yet leaves room for its next byte. -/
theorem length_lt_capacity_of_incomplete (heq : bytes ++ [b] = first :: size :: more) (hs : sizeOk size = true)
    (hl : more.length < size.toNat) : bytes.length < capacity := by
  have hlen := congrArg List.length heq
  have hsize := (sizeOk_iff size).1 hs
  have h67 : capacity = 67 := rfl
  simp only [List.length_append, List.length_cons, List.length_nil] at hlen
  omega

/-- Settles O32: the evaluation of an incomplete candidate does nothing. -/
theorem incompleteCandidateWaits : Obligations.IncompleteCandidateWaits := by
  intro b first size more bytes now s h heq hmin hmax hl
  have hs : sizeOk size = true := (sizeOk_iff size).2 ⟨hmin, hmax⟩
  obtain ⟨buf, h1, hrx⟩ := execRxByteWith_of_holds (p := Config.params) (now := now) h
    (length_lt_capacity_of_incomplete heq hs hl) b
  rw [evaluate_of_incomplete (heq ▸ h1) hs hl] at hrx
  exact ⟨_, hrx, h1, buf, by rw [← h.1]; rfl⟩

theorem dropLast_bytes (f : Frame) : f.bytes.dropLast ++ [f.crc] = f.bytes := by
  rw [Frame.bytes, ← List.cons_append, ← List.cons_append, ← List.cons_append, List.dropLast_concat]

theorem length_dropLast_bytes_lt (hs : sizeOk f.frameSize = true) (hl : f.payload.length + 2 = f.frameSize.toNat) :
    f.bytes.dropLast.length < capacity := by
  have hsize := (sizeOk_iff _).1 hs
  have h67 : capacity = 67 := rfl
  rw [List.length_dropLast, Frame.length_bytes]
  omega

/-- The byte that completes a valid frame: the frame is found in the state with the byte appended, and dropped. -/
theorem execRxByteWith_completes_frame (hv : f.valid p.crcTable = true) (h : Holds s f.bytes.dropLast) :
    ∃ buf, Holds (received buf now s) f.bytes ∧ execRxByteWith p f.crc now s =
      .next (shift (f.frameSize.toNat + 2) (frameFound f now (received buf now s))) := by
  obtain ⟨hs, hl, -⟩ := (Frame.valid_iff f _).1 hv
  obtain ⟨buf, h1, hrx⟩ := execRxByteWith_of_holds (p := p) (now := now) h (length_dropLast_bytes_lt hs hl) f.crc
  rw [dropLast_bytes] at h1
  rw [evaluate_of_frame h1 hv] at hrx
  exact ⟨buf, h1, hrx⟩

/-- A dispatch looks at neither the buffer nor the result, so the frame may be found before the buffer is emptied or
after it. -/
theorem shift_frameFound_received {n : Nat} (hn : s.cursor + 1 = n) (buf : Buffer) (f : Frame) :
    ∃ buf', shift n (frameFound f now (received buf now s)) = giveResult .nothing (frameFound f now
      { s with buf := buf', cursor := 0, lastReceiveTime := now, draws := s.draws + 1 }) := by
  have hwith := frameFound_with (now := now) f { s with lastReceiveTime := now }
  have hreceived := hwith buf (s.cursor + 1) .nothing s.draws
  have hemptied buf' := hwith buf' 0 s.result (s.draws + 1)
  refine ⟨(shift n (frameFound f now (received buf now s))).buf, ?_⟩
  rw [hemptied, show frameFound f now (received buf now s) = _ from hreceived, shift, hn, Nat.sub_self]
  rfl

/-- Settles O30: the byte completes the frame, which is then dispatched and dropped. -/
theorem lastByteOfAFrameRunsItsRow : Obligations.LastByteOfAFrameRunsItsRow := by
  intro f now s hv h
  obtain ⟨buf, h1, hrx⟩ := execRxByteWith_completes_frame (p := Config.params) (now := now) hv h
  obtain ⟨buf', hfound⟩ := shift_frameFound_received (now := now) (h1.1.trans (Frame.length_bytes_of_valid hv)) buf f
  exact ⟨buf', s.draws + 1, by rw [exec_inboundInstr hv, runInbound, ← hfound]; exact hrx⟩

/-! ### The bytes of a frame -/

theorem sameRecords_refl (s : State) : sameRecords s s := ⟨rfl, rfl, rfl, rfl, rfl, rfl, rfl, rfl⟩

theorem sameRecords_trans (h : sameRecords s t) (h' : sameRecords t u) : sameRecords s u := by
  obtain ⟨htime, hup, hb, hg, hv, hbaro, ha, hl⟩ := h
  obtain ⟨htime', hup', hb', hg', hv', hbaro', ha', hl'⟩ := h'
  exact ⟨htime.trans htime', hup.trans hup', hb.trans hb', hg.trans hg', hv.trans hv', hbaro.trans hbaro',
    ha.trans ha', hl.trans hl'⟩

theorem sameRecords_received (buf : Buffer) (now : Time) (s : State) : sameRecords s (received buf now s) :=
  ⟨rfl, rfl, rfl, rfl, rfl, rfl, rfl, rfl⟩

/-- The same frames make the same of equal records and link states. -/
theorem Finds.sameRecords {T' : CrcTable} (h : Finds T now found s t) (h' : Finds T' now found s' u)
    (hs : Spec.sameRecords s s') : Spec.sameRecords t u := by
  obtain ⟨htime, hup, hb, hg, hv, hbaro, ha, hl⟩ := hs
  refine ⟨?_, ?_, ?_, ?_, ?_, ?_, ?_, ?_⟩
  · rw [h.lastChannelsFrameTime, h'.lastChannelsFrameTime, htime]
  · rw [h.linkIsUp, h'.linkIsUp, hup]
  · rw [h.battery, h'.battery, hb]
  · rw [h.gps, h'.gps, hg]
  · rw [h.vario, h'.vario, hv]
  · rw [h.baro, h'.baro, hbaro]
  · rw [h.attitude, h'.attitude, ha]
  · rw [h.linkStats, h'.linkStats, hl]

theorem runEach_cons_of_next {run : Instr → State → Host.Outcome State Fault Refusal} {i : Instr}
    (h : run i s = .next t) (is : List Instr) : runEach run (i :: is) s = runEach run is t := by
  rw [runEach, h]

theorem runEach_append_of_next {run : Instr → State → Host.Outcome State Fault Refusal} {is : List Instr}
    (h : runEach run is s = .next t) (is' : List Instr) : runEach run (is ++ is') s = runEach run is' t := by
  induction is generalizing s with
  | nil => cases h; rfl
  | cons i is ih =>
    rw [runEach] at h
    split at h
    · next s' hs' => exact (runEach_cons_of_next hs' _).trans (ih h)
    · cases h
    · cases h

/-- What is held of a frame before its last byte leaves an evaluation nothing to do. -/
theorem evaluate_of_unfinished (hv : f.valid T = true) (heq : bytes ++ rest = f.bytes) (hne : rest ≠ [])
    (h : Holds s bytes) : evaluate p now s = (.done, s) := by
  match bytes, h with
  | [], h => exact evaluateLoop_of_cursor_lt (by rw [h.1]; exact Nat.zero_lt_two)
  | [_], h => exact evaluateLoop_of_cursor_lt (by rw [h.1]; exact Nat.one_lt_two)
  | first :: size :: more, h =>
    obtain ⟨hs, hl, -⟩ := (Frame.valid_iff f _).1 hv
    have hlen := congrArg List.length heq
    have hpos := List.length_pos_of_ne_nil hne
    injection heq with _ heq
    injection heq with hsize _
    subst hsize
    rw [Frame.length_bytes, List.length_append, List.length_cons, List.length_cons] at hlen
    exact evaluate_of_incomplete h hs (by omega)

/-- The bytes of a valid frame before its last one are only appended. -/
theorem runAllWith_rxs_unfinished (hv : f.valid T = true) (l : List Byte) (heq : bytes ++ l ++ rest = f.bytes)
    (hne : rest ≠ []) (h : Holds s bytes) :
    ∃ t, runAllWith p (rxs l now) s = .next t ∧ Holds t (bytes ++ l) ∧ t.events = s.events ∧ sameRecords s t := by
  induction l generalizing s bytes with
  | nil => exact ⟨s, rfl, by rwa [List.append_nil], rfl, sameRecords_refl s⟩
  | cons b l ih =>
    have heq' : bytes ++ [b] ++ l ++ rest = f.bytes := by rw [List.append_assoc bytes [b] l]; exact heq
    have hroom : bytes.length < capacity := by
      have hlen := congrArg List.length heq
      have hpay := Frame.payload_bounds hv
      have h67 : capacity = 67 := rfl
      simp only [List.length_append, List.length_cons, Frame.length_bytes] at hlen
      omega
    obtain ⟨buf, h1, hrx⟩ := execRxByteWith_of_holds (p := p) (now := now) h hroom b
    rw [evaluate_of_unfinished hv (rest := l ++ rest) (by rw [← heq', List.append_assoc _ l]) (by simp [hne]) h1] at hrx
    obtain ⟨t, hrun, ht, he, hr⟩ := ih heq' h1
    refine ⟨t, (runEach_cons_of_next hrx _).trans hrun, by rwa [List.append_assoc] at ht, he,
      sameRecords_trans (sameRecords_received buf now s) hr⟩

/-- A valid frame's bytes fed into an empty buffer: the frame is found, once, and the buffer is empty again. -/
theorem runAllWith_rxs_frame (hv : f.valid p.crcTable = true) (h : Holds s []) :
    ∃ t, runAllWith p (rxs f.bytes now) s = .next t ∧ Holds t [] ∧ t.events = s.events ++ [f] ∧
      sameRecords (frameFound f now s) t := by
  obtain ⟨s1, hrun, h1, he, hr⟩ := runAllWith_rxs_unfinished (p := p) (now := now) (rest := [f.crc]) hv f.bytes.dropLast
    (dropLast_bytes f) (List.cons_ne_nil _ _) h
  obtain ⟨buf, h2, hrx⟩ := execRxByteWith_completes_frame (now := now) hv h1
  refine ⟨_, ?_, holds_shift_frameFound (now := now) (rest := []) (by rwa [List.append_nil]) hv, ?_, ?_⟩
  · rw [← dropLast_bytes f, rxs, List.map_append]
    exact (runEach_append_of_next hrun _).trans (runEach_cons_of_next hrx [])
  · rw [shift_events, frameFound_events, ← he]
    rfl
  · exact (frameFound_finds hv now s).sameRecords ((frameFound_finds hv now _).trans (shift_finds p.crcTable now _ _))
      (sameRecords_trans hr (sameRecords_received buf now s1))

/-- Valid frames fed back to back into an empty buffer, for any parameters (42_reassembler.md section 4). -/
theorem runAllWith_rxs_frames (frames : List Frame) (hv : ∀ f ∈ frames, f.valid p.crcTable = true) (h : Holds s []) :
    ∃ t, runAllWith p (rxs (frames.flatMap Frame.bytes) now) s = .next t ∧ t.events = s.events ++ frames ∧
      Holds t [] := by
  induction frames generalizing s with
  | nil => exact ⟨s, rfl, (List.append_nil _).symm, h⟩
  | cons f frames ih =>
    obtain ⟨hf, hframes⟩ := List.forall_mem_cons.1 hv
    obtain ⟨s1, hrun, h1, he, -⟩ := runAllWith_rxs_frame (now := now) hf h
    obtain ⟨t, hrun', he', ht⟩ := ih hframes h1
    refine ⟨t, ?_, by rw [he', he, List.append_assoc]; rfl, ht⟩
    rw [List.flatMap_cons, rxs, List.map_append]
    exact (runEach_append_of_next hrun _).trans hrun'

theorem runAllWith_params : runAllWith Config.params = runAll := by
  rw [runAllWith, runAll, show execWith Config.params = exec from funext fun i => funext (execWith_params i)]

/-- Settles O34: frame by frame, each from an empty buffer. -/
theorem validFramesBackToBackAreEachFoundOnce : Obligations.ValidFramesBackToBackAreEachFoundOnce := by
  intro frames now s hv h
  rw [← runAllWith_params]
  exact runAllWith_rxs_frames frames hv h

/-- The answer of either encoder is a valid frame's bytes, its address the controller's. -/
theorem exec_encoder_eq {i : Instr}
    (hi : (∃ ch, i = .encChannels ch) ∨ ∃ commandId value, i = .encCommand commandId value)
    (h : exec i s = .next t) : ∃ f : Frame, t = giveResult (.frame f.bytes) s ∧ f.valid = true ∧
      f.deviceAddr = addrController := by
  rcases hi with ⟨ch, rfl⟩ | ⟨commandId, value, rfl⟩
  · cases h
    exact ⟨_, rfl, Frame.build_valid _ _ (by simp) (by simp), rfl⟩
  · cases h
    exact ⟨_, rfl, Frame.build_valid _ _ (by simp) (by simp), rfl⟩

/-- Settles O18: the answer is a valid frame, so it is found once; its address is not the radio's, so its dispatch only
leaves a trace. -/
theorem encodedFramesReadBackAreIgnoredEvents : Obligations.EncodedFramesReadBackAreIgnoredEvents := by
  intro i s t bytes now _ hi hexec hresult h
  obtain ⟨f, rfl, hv, haddr⟩ := exec_encoder_eq hi hexec
  cases hresult
  obtain ⟨u, hrun, hu, he, hr⟩ := runAllWith_rxs_frame (p := Config.params) (now := now) hv
    (holds_congr (t := giveResult (.frame f.bytes) s) h rfl rfl)
  have hne : f.deviceAddr ≠ addrRadio := by rw [haddr]; decide
  rw [frameFound, dispatch_of_otherAddr hne] at hr
  rw [← runAllWith_params]
  exact ⟨u, f, hrun, he, rfl, hu, hr⟩

end Sys2Proof.Machine
end

section
/-! The spec's loops on byte sequences: RX_BYTE as `scan` and the receive-timeout flush as `drain` (42_reassembler.md
sections 2, 3). After them the instance's table in every unit (40_checksum.md). -/

namespace Sys2Proof.Machine

open Sys2Proof.Spec

variable {p : Params} {now : Time} {s t u : State} {T : CrcTable} {f : Frame} {found : List Frame}
  {first size : Byte} {bytes more rest : List Byte} {cap bound n k : Nat}

/-! ### The candidates of the two functions -/

theorem bytes_append_eq (f : Frame) (rest : List Byte) :
    f.bytes ++ rest = f.deviceAddr :: f.frameSize :: f.type :: (f.payload ++ f.crc :: rest) := by
  simp [Frame.bytes]

theorem take_of_complete (hl : f.payload.length + 2 = f.frameSize.toNat) (rest : List Byte) :
    (f.type :: (f.payload ++ f.crc :: rest)).take (f.frameSize.toNat - 1) = f.type :: f.payload := by
  rw [show f.frameSize.toNat - 1 = f.payload.length + 1 by omega, List.take_succ_cons, List.take_left' rfl]

theorem drop_of_complete (hl : f.payload.length + 2 = f.frameSize.toNat) (rest : List Byte) :
    (f.type :: (f.payload ++ f.crc :: rest)).drop (f.frameSize.toNat - 1) = f.crc :: rest := by
  rw [show f.frameSize.toNat - 1 = f.payload.length + 1 by omega, List.drop_succ_cons, List.drop_left' rfl]

theorem frameSize_le_of_complete (hl : f.payload.length + 2 = f.frameSize.toNat) (rest : List Byte) :
    f.frameSize.toNat ≤ (f.type :: (f.payload ++ f.crc :: rest)).length := by
  simp only [List.length_cons, List.length_append]
  omega

theorem sizeOk_eq_false_iff : sizeOk size = false ↔ size.toNat < 3 ∨ 64 < size.toNat := by
  rw [← Bool.not_eq_true, sizeOk_iff]
  omega

/-! ### RX_BYTE as `scan` -/

theorem scan_of_length_lt (h : bytes.length < 2) : scan cap n k bytes = ([], bytes) := by
  match n, bytes, h with
  | 0, _, _ => rfl
  | _ + 1, [], _ => rfl
  | _ + 1, [_], _ => rfl

theorem scan_of_cap (cap n : Nat) (bytes : List Byte) : scan cap n cap bytes = ([], bytes) := by
  match n, bytes with
  | 0, _ => rfl
  | _ + 1, [] => rfl
  | _ + 1, [_] => rfl
  | _ + 1, _ :: _ :: _ => rw [scan, if_pos rfl]

theorem scan_badLength (hk : k ≠ cap) (hs : sizeOk size = false) :
    scan cap (n + 1) k (first :: size :: more) = scan cap n (k + 1) (size :: more) := by
  rw [scan, if_neg hk, if_pos (sizeOk_eq_false_iff.1 hs)]

theorem scan_incomplete (hk : k ≠ cap) (hs : sizeOk size = true) (hl : more.length < size.toNat) :
    scan cap (n + 1) k (first :: size :: more) = ([], first :: size :: more) := by
  have hsize := (sizeOk_iff size).1 hs
  rw [scan, if_neg hk, if_neg (by omega), if_pos hl]

theorem scan_complete (hk : k ≠ cap) (hs : sizeOk f.frameSize = true) (hl : f.payload.length + 2 = f.frameSize.toNat) :
    scan cap (n + 1) k (f.bytes ++ rest) =
      if bitCrc f.body = f.crc then (f :: (scan cap n (k + 1) rest).1, (scan cap n (k + 1) rest).2)
      else scan cap n (k + 1) (f.bytes ++ rest).tail := by
  have hsize := (sizeOk_iff _).1 hs
  rw [bytes_append_eq, scan, if_neg hk, if_neg (by omega), if_neg (Nat.not_lt.2 (frameSize_le_of_complete hl rest)),
    take_of_complete hl, drop_of_complete hl]
  rfl

/-- The evaluation is `scan` on the bytes the buffer holds: it leaves the bytes that `scan` leaves, and its new events
are the frames that `scan` finds (42_reassembler.md R152). -/
theorem evaluateLoop_scan (hT : p.crcTable = crcTable) (h : Holds s bytes) :
    Holds (evaluateLoop p now bound k s).2 (scan p.reprocCap bound k bytes).2 ∧
      (evaluateLoop p now bound k s).2.events = s.events ++ (scan p.reprocCap bound k bytes).1 := by
  induction bound generalizing k s bytes with
  | zero => exact ⟨h, (List.append_nil _).symm⟩
  | succ bound ih =>
    have hstop : Holds s bytes ∧ s.events = s.events ++ [] := ⟨h, (List.append_nil _).symm⟩
    by_cases hshort : bytes.length < 2
    · rw [evaluateLoop_of_cursor_lt (h.1.trans_lt hshort), scan_of_length_lt hshort]
      exact hstop
    · have hc : 2 ≤ s.cursor := by rw [h.1]; exact Nat.not_lt.1 hshort
      by_cases hk : k = p.reprocCap
      · rw [hk, evaluateLoop_of_cap hc, scan_of_cap]
        exact ⟨holds_congr h rfl rfl, (List.append_nil _).symm⟩
      · rcases candidate_cases (Nat.not_lt.1 hshort) with ⟨first, size, more, rfl, hs⟩ |
          ⟨first, size, more, rfl, hs, hl⟩ | ⟨f, rest, rfl, hs, hl⟩
        · rw [evaluateLoop_badSize h hs hk, scan_badLength hk hs]
          exact ih (holds_dropBadSize h)
        · rw [evaluateLoop_of_act_none hk (act_incomplete h hs hl), scan_incomplete hk hs hl]
          exact hstop
        · rw [scan_complete hk hs hl, ← crc8_eq_bitCrc, ← hT]
          split
          · next hcrc =>
            have hv : f.valid p.crcTable = true := (Frame.valid_iff f _).2 ⟨hs, hl, hcrc⟩
            obtain ⟨hleft, he⟩ := ih (k := k + 1) (holds_shift_frameFound (now := now) h hv)
            rw [evaluateLoop_of_act hc hk (act_frame h hv)]
            refine ⟨hleft, ?_⟩
            rw [he, shift_events, frameFound_events, List.append_assoc]
            rfl
          · next hcrc =>
            rw [evaluateLoop_of_act hc hk (act_badChecksum h hs hl hcrc)]
            exact ih (holds_dropBadChecksum h)

/-- The rows of valid frames, run one after the other, find these frames. -/
theorem runAllWith_rows (found : List Frame) (hv : ∀ f ∈ found, f.valid p.crcTable = true) (now : Time) (s : State) :
    ∃ u, runAllWith p (found.map (inboundInstr · now)) s = .next u ∧ Finds p.crcTable now found s u := by
  induction found generalizing s with
  | nil => exact ⟨s, rfl, .refl _ now s⟩
  | cons f found ih =>
    obtain ⟨hf, hfound⟩ := List.forall_mem_cons.1 hv
    obtain ⟨u, hrun, hu⟩ := ih hfound (giveResult .nothing (frameFound f now s))
    exact ⟨u, (runEach_cons_of_next (execWith_inboundInstr hf now s) _).trans hrun,
      ((frameFound_finds hf now s).trans (giveResult_finds _ now _ _)).trans hu⟩

/-- Settles O33: the evaluation of the bytes with the new one behind them is `scan`, and the frames found act on the
records and the link state as their rows do. -/
theorem rxByteRefinesTheByteSequenceLoop : Obligations.RxByteRefinesTheByteSequenceLoop := by
  intro b now s bytes h hl
  obtain ⟨buf, h1, hrx⟩ := execRxByteWith_of_holds (p := Config.params) (now := now) h hl b
  obtain ⟨hleft, he⟩ := evaluateLoop_scan (p := Config.params) (now := now) (bound := bytes.length + 1) (k := 0) rfl h1
  obtain ⟨found, hfound⟩ := evaluate_finds Config.params now (received buf now s)
  have hevaluate : evaluate Config.params now (received buf now s) =
      evaluateLoop Config.params now (bytes.length + 1) 0 (received buf now s) := by
    rw [evaluate, h1.1, List.length_append]
    rfl
  rw [← hevaluate] at hleft he
  cases List.append_cancel_left (he.symm.trans hfound.events)
  obtain ⟨u, hrun, hu⟩ := runAllWith_rows _ hfound.valid now s
  rw [← runAllWith_params]
  exact ⟨_, u, hrx, hleft, he, hrun, hu.sameRecords hfound (sameRecords_received buf now s)⟩

/-! ### The flush as `drain` -/

variable {check : List Byte → Byte}

theorem drain_of_length_lt (h : bytes.length < 2) : drain check n bytes = [] := by
  match n, bytes, h with
  | 0, _, _ => rfl
  | _ + 1, [], _ => rfl
  | _ + 1, [_], _ => rfl

/-- Where no complete candidate starts, one byte is dropped. -/
theorem drain_of_not_complete (h : sizeOk size = false ∨ more.length < size.toNat) :
    drain check (n + 1) (first :: size :: more) = drain check n (size :: more) := by
  rw [drain, if_neg]
  rintro ⟨hmin, hmax, hl⟩
  rcases h with h | h
  · rw [sizeOk_eq_false_iff] at h; omega
  · omega

theorem drain_complete (hs : sizeOk f.frameSize = true) (hl : f.payload.length + 2 = f.frameSize.toNat) :
    drain check (n + 1) (f.bytes ++ rest) =
      if check f.body = f.crc then f :: drain check n rest else drain check n (f.bytes ++ rest).tail := by
  have hsize := (sizeOk_iff _).1 hs
  rw [bytes_append_eq, drain, if_pos ⟨hsize.1, hsize.2, frameSize_le_of_complete hl rest⟩, take_of_complete hl,
    drop_of_complete hl]
  rfl

/-- As many passes as there are bytes are enough. -/
theorem drain_eq_of_length_le {m : Nat} (hn : bytes.length ≤ n) (hm : bytes.length ≤ m) :
    drain check n bytes = drain check m bytes := by
  induction n generalizing m bytes with
  | zero => rw [drain_of_length_lt (by omega), drain_of_length_lt (by omega)]
  | succ n ih =>
    by_cases hshort : bytes.length < 2
    · rw [drain_of_length_lt hshort, drain_of_length_lt hshort]
    · obtain ⟨m, rfl⟩ : ∃ m', m = m' + 1 := ⟨m - 1, by omega⟩
      rcases candidate_cases (Nat.not_lt.1 hshort) with ⟨first, size, more, rfl, hs⟩ |
        ⟨first, size, more, rfl, -, hl⟩ | ⟨f, rest, rfl, hs, hl⟩
      · rw [drain_of_not_complete (.inl hs), drain_of_not_complete (.inl hs)]
        exact ih (Nat.le_of_succ_le_succ hn) (Nat.le_of_succ_le_succ hm)
      · rw [drain_of_not_complete (.inr hl), drain_of_not_complete (.inr hl)]
        exact ih (Nat.le_of_succ_le_succ hn) (Nat.le_of_succ_le_succ hm)
      · rw [drain_complete hs hl, drain_complete hs hl]
        rw [List.length_append, Frame.length_bytes] at hn hm
        rw [ih (m := m) (bytes := rest) (by omega) (by omega),
          ih (m := m) (bytes := (f.bytes ++ rest).tail) (by simp [Frame.length_bytes]; omega)
            (by simp [Frame.length_bytes]; omega)]

/-- The frames the plain drain of an instance finds. -/
abbrev drained (T : CrcTable) (bytes : List Byte) : List Frame := drain (tableCrc T) bytes.length bytes

theorem drained_of_not_complete (h : sizeOk size = false ∨ more.length < size.toNat) :
    drained T (first :: size :: more) = drained T (size :: more) :=
  drain_of_not_complete h

theorem drained_of_valid (hv : f.valid T = true) : drained T (f.bytes ++ rest) = f :: drained T rest := by
  obtain ⟨hs, hl, hcrc⟩ := (Frame.valid_iff f T).1 hv
  rw [drained, drain_eq_of_length_le (m := (f.bytes ++ rest).length + 1) (Nat.le_refl _) (Nat.le_succ _),
    drain_complete hs hl, if_pos (by rw [← crc8_eq_tableCrc, hcrc]),
    drain_eq_of_length_le (m := rest.length) (by simp) (Nat.le_refl _)]

theorem drained_of_badChecksum (hs : sizeOk f.frameSize = true) (hl : f.payload.length + 2 = f.frameSize.toNat)
    (hcrc : crc8 f.body T ≠ f.crc) : drained T (f.bytes ++ rest) = drained T (f.bytes ++ rest).tail := by
  rw [drained, drain_eq_of_length_le (m := (f.bytes ++ rest).length + 1) (Nat.le_refl _) (Nat.le_succ _),
    drain_complete hs hl, if_neg (by rwa [← crc8_eq_tableCrc]),
    drain_eq_of_length_le (m := (f.bytes ++ rest).tail.length) (by simp) (Nat.le_refl _)]

/-- Of the frames the plain drain finds in `bytes`, the new events since `events` are the first ones, and the bytes
still held hold the others. -/
abbrev DrainedUpTo (T : CrcTable) (events : List Frame) (bytes : List Byte) (u : State) : Prop :=
  ∃ found left, Holds u left ∧ u.events = events ++ found ∧ drained T bytes = found ++ drained T left

theorem drainedUpTo_action (events : List Frame) (bytes : List Byte) :
    KeptByActions p now (DrainedUpTo p.crcTable events bytes) := by
  rintro u u' ⟨found, left, h, he, hd⟩ hc hact
  rcases candidate_cases (h.1 ▸ hc) with ⟨first, size, more, rfl, hs⟩ | ⟨first, size, more, rfl, hs, hl⟩ |
    ⟨f, rest, rfl, hs, hl⟩
  · cases (act_badLength h hs).symm.trans hact
    exact ⟨found, _, holds_dropBadSize h, he, by rw [hd, drained_of_not_complete (.inl hs)]⟩
  · cases (act_incomplete h hs hl).symm.trans hact
  · by_cases hcrc : crc8 f.body p.crcTable = f.crc
    · have hv : f.valid p.crcTable = true := (Frame.valid_iff f _).2 ⟨hs, hl, hcrc⟩
      cases (act_frame h hv).symm.trans hact
      refine ⟨found ++ [f], rest, holds_shift_frameFound h hv, ?_, ?_⟩
      · rw [shift_events, frameFound_events, he, List.append_assoc]
      · rw [hd, drained_of_valid hv, List.append_assoc]
        rfl
    · cases (act_badChecksum h hs hl hcrc).symm.trans hact
      exact ⟨found, _, holds_dropBadChecksum h, he, by rw [hd, drained_of_badChecksum hs hl hcrc]⟩

theorem drainedUpTo_record (events : List Frame) (bytes : List Byte) : KeptByRecords (DrainedUpTo T events bytes) := by
  rintro u e - ⟨found, left, h, he, hd⟩
  exact ⟨found, left, holds_congr h rfl rfl, he, hd⟩

/-- Where an evaluation has nothing more to do, the plain drain drops one byte too. -/
theorem drained_tail_of_stopped (h : Holds s bytes) (hstop : s.cursor < 2 ∨ front p s = .incomplete) :
    drained T bytes = drained T bytes.tail := by
  by_cases hshort : bytes.length < 2
  · rw [drained, drain_of_length_lt hshort, drained, drain_of_length_lt (by rw [List.length_tail]; omega)]
  · have hfront : front p s = .incomplete := hstop.resolve_left (h.1 ▸ hshort)
    rcases candidate_cases (Nat.not_lt.1 hshort) with ⟨first, size, more, rfl, hs⟩ |
      ⟨first, size, more, rfl, -, hl⟩ | ⟨f, rest, rfl, hs, hl⟩
    · cases (front_of_badLength h hs).symm.trans hfront
    · exact drained_of_not_complete (.inr hl)
    · have hcheck := (front_of_complete h hs hl).symm.trans hfront
      unfold checkFrame at hcheck
      split at hcheck <;> cases hcheck

theorem holds_flushOne (h : Holds s bytes) : Holds (flushOne s) bytes.tail := by
  unfold flushOne
  split
  · next hc =>
    have hnil : bytes = [] := List.length_eq_zero_iff.1 (h.1.symm.trans hc)
    subst hnil
    exact h
  · rw [← List.drop_one]
    exact holds_shift (s := record _ s) (holds_congr h rfl rfl) 1

/-- The flush finds the frames of the plain drain, whatever the cap (42_reassembler.md R157; D14). -/
theorem flushLoop_events (h : Holds s bytes) (hb : bytes.length ≤ bound) :
    (flushLoop p now bound s).events = s.events ++ drained p.crcTable bytes := by
  induction bound generalizing s bytes with
  | zero =>
    rw [List.length_eq_zero_iff.1 (Nat.le_zero.1 hb)]
    exact (List.append_nil _).symm
  | succ bound ih =>
    unfold flushLoop
    split
    · next hc =>
      rw [List.length_eq_zero_iff.1 (h.1.symm.trans hc)]
      exact (List.append_nil _).symm
    · obtain ⟨found, left, hleft, he, hd⟩ := evaluateAll_keeps (drainedUpTo_action s.events bytes)
        (drainedUpTo_record s.events bytes) s.cursor ⟨[], bytes, h, (List.append_nil _).symm, rfl⟩
      have hstop := evaluateAll_stop (p := p) (now := now) (Nat.le_refl s.cursor)
      have hle := evaluateAll_cursor_le p now s.cursor s
      rw [hleft.1, h.1] at hle
      rw [ih (holds_flushOne hleft) (by rw [List.length_tail]; omega), flushOne_events, he, hd, List.append_assoc,
        drained_tail_of_stopped hleft hstop]

theorem timeoutFlush_events (h : Holds s bytes) (hexp : p.rxTimeout.toNat < elapsedMs now s.lastReceiveTime) :
    (timeoutFlush p now s).events = s.events ++ drained p.crcTable bytes := by
  by_cases hc : s.cursor = 0
  · rw [timeoutFlush_of_not (.inl hc), List.length_eq_zero_iff.1 (h.1.symm.trans hc)]
    exact (List.append_nil _).symm
  · rw [elapsedMs_eq] at hexp
    rw [timeoutFlush_of_expired (Nat.pos_of_ne_zero hc) hexp]
    exact flushLoop_events (s := record _ s) (holds_congr h rfl rfl) h.1.ge

/-- Settles O40: the flush finds the frames of the plain drain, they act as their rows do, and the fail-safe check
changes the link flag only. -/
theorem flushFindsEveryBufferedFrame : Obligations.FlushFindsEveryBufferedFrame := by
  intro p now s bytes h hexp
  obtain ⟨found, hfound⟩ := timeoutFlush_finds p now (giveResult .nothing s)
  have he := timeoutFlush_events (p := p) (now := now) (holds_congr (t := giveResult .nothing s) h rfl rfl) hexp
  cases List.append_cancel_left (he.symm.trans hfound.events)
  obtain ⟨u, hrun, hu⟩ := runAllWith_rows _ hfound.valid now s
  refine ⟨_, u, rfl, holds_nil ?_, ?_, hrun, ?_⟩
  · rw [poll, failsafeCheck_cursor]
    exact timeoutFlush_cursor_of_expired hexp
  · rw [poll, failsafeCheck_events, he]
    rfl
  · obtain ⟨htime, hup, hrecords⟩ := hu.sameRecords hfound (sameRecords_refl s)
    rw [poll, failsafeCheck_eq, htime, hup]
    exact ⟨rfl, rfl, hrecords⟩

/-! ### The instance's table -/

/-- The frames an evaluation finds are no longer than what the buffer holds. -/
theorem evaluateLoop_found_fits (p : Params) (now : Time) (bound k : Nat) (s : State) :
    ∃ found, (evaluateLoop p now bound k s).2.events = s.events ++ found ∧
      ∀ f ∈ found, f.frameSize.toNat + 2 ≤ s.cursor := by
  refine (evaluateLoop_keeps (P := fun u => u.cursor ≤ s.cursor ∧ ∃ found, u.events = s.events ++ found ∧
    ∀ f ∈ found, f.frameSize.toNat + 2 ≤ s.cursor) ?action ?record bound k
    ⟨Nat.le_refl _, [], (List.append_nil _).symm, nofun⟩).2
  case action =>
    rintro u u' ⟨hle, found, he, hfits⟩ hc hact
    refine ⟨(act_cursor hc hact).le.trans hle, ?_⟩
    rcases act_cases hact with ⟨e, rfl, -⟩ | ⟨f, -, -, hf, rfl⟩
    · exact ⟨found, he, hfits⟩
    · refine ⟨found ++ [f], ?_, fun g hg => ?_⟩
      · rw [shift_events, frameFound_events, he, List.append_assoc]
      · rcases List.mem_append.1 hg with hg | hg
        · exact hfits g hg
        · rw [List.mem_singleton.1 hg]; exact hf.trans hle
  case record => exact fun _ _ _ hu => hu

/-- A completed candidate is found exactly when its checksum is the one of the instance's table. -/
theorem evaluate_finds_candidate_iff (h : Holds s f.bytes) (hs : sizeOk f.frameSize = true)
    (hl : f.payload.length + 2 = f.frameSize.toNat) :
    ∃ found, (evaluate p now s).2.events = s.events ++ found ∧ (found = [f] ↔ crc8 f.body p.crcTable = f.crc) := by
  by_cases hcrc : crc8 f.body p.crcTable = f.crc
  · have hv : f.valid p.crcTable = true := (Frame.valid_iff f _).2 ⟨hs, hl, hcrc⟩
    refine ⟨[f], ?_, iff_of_true rfl hcrc⟩
    rw [evaluate_of_frame h hv, shift_events, frameFound_events]
  · have hframe : Holds s (f.bytes ++ []) := by rwa [List.append_nil]
    obtain ⟨found, he, hfits⟩ := evaluateLoop_found_fits p now (f.payload.length + 3) 1
      (dropBadChecksum p.crcTable f s)
    refine ⟨found, ?_, iff_of_false (fun hfound => ?_) hcrc⟩
    · rw [evaluate, h.1, Frame.length_bytes, evaluateLoop_of_act (two_le_cursor_of_holds h) (zero_ne_reprocCap p)
        (act_badChecksum hframe hs hl hcrc), he]
      rfl
    · have hf := hfits f (by rw [hfound]; exact List.mem_singleton_self f)
      rw [(holds_dropBadChecksum (f := f) h).1, List.length_tail, Frame.length_bytes] at hf
      omega

/-- Settles O53: the four users of the checksum, over the same bytes, with the instance's table. -/
theorem everyUnitUsesTheInstancesTable : Obligations.EveryUnitUsesTheInstancesTable := by
  refine ⟨fun p data s => ?crc8, fun p commandId value s => ?command, fun p ch s _ => ?channels,
    fun p f now s hmin hmax hl h => ?check⟩
  case crc8 => exact congrArg (fun c => answer (.byte c) s) (crc8_eq_tableCrc p.crcTable data)
  case command =>
    rw [← crc8_eq_tableCrc]
    exact congrArg (fun bytes => answer (.frame bytes) s) (commandFrame_bytes commandId value p.crcTable)
  case channels =>
    refine ⟨pack (ch.map maskChannel), length_pack _, ?_⟩
    rw [← crc8_eq_tableCrc]
    exact execEncChannelsWith_eq p ch s
  case check =>
    have hs : sizeOk f.frameSize = true := (sizeOk_iff _).2 ⟨hmin, hmax⟩
    obtain ⟨buf, h1, hrx⟩ := execRxByteWith_of_holds (p := p) (now := now) h (length_dropLast_bytes_lt hs hl) f.crc
    rw [dropLast_bytes] at h1
    obtain ⟨found, he, hiff⟩ := evaluate_finds_candidate_iff (p := p) (now := now) h1 hs hl
    rw [← crc8_eq_tableCrc]
    exact ⟨_, found, hrx, he, hiff⟩

end Sys2Proof.Machine
end

section
/-! Noninterference: two runs in lockstep from states that differ only in what no rule reads (10_state.md sections 2, 5;
60_exceptions.md section 1). -/

namespace Sys2Proof.Machine

open Sys2Proof.Spec

variable {p : Params} {now : Time} {s1 s2 t1 u1 u2 : State} {e1 e2 : List Frame}

/-- Two states in lockstep: equal in what the rules read, and with the same events since `e1` and `e2`. -/
structure Twin (e1 e2 : List Frame) (u1 u2 : State) : Prop where
  held : u1.held = u2.held
  cursor : u1.cursor = u2.cursor
  cursor_le : u1.cursor ≤ capacity
  lastReceiveTime : u1.lastReceiveTime = u2.lastReceiveTime
  records : sameRecords u1 u2
  events : ∃ found, u1.events = e1 ++ found ∧ u2.events = e2 ++ found

theorem Twin.sameEngine (h : Twin e1 e2 u1 u2) : SameEngine u1 u2 := ⟨h.held, h.cursor, h.lastReceiveTime, h.records⟩

theorem Twin.holds (h : Twin e1 e2 u1 u2) : Holds u1 u1.held ∧ Holds u2 u1.held := by
  refine ⟨holds_held h.cursor_le, ?_⟩
  rw [h.held]
  exact holds_held (h.cursor ▸ h.cursor_le)

/-! ### The shared operations -/

theorem Twin.record (h : Twin e1 e2 u1 u2) (why1 why2 : TraceEntry) :
    Twin e1 e2 (record why1 u1) (record why2 u2) :=
  ⟨h.held, h.cursor, h.cursor_le, h.lastReceiveTime, h.records, h.events⟩

theorem Twin.giveResult (h : Twin e1 e2 u1 u2) (r : OpResult) : Twin e1 e2 (giveResult r u1) (giveResult r u2) :=
  ⟨h.held, h.cursor, h.cursor_le, h.lastReceiveTime, h.records, h.events⟩

theorem Twin.shift (h : Twin e1 e2 u1 u2) (n : Nat) : Twin e1 e2 (shift n u1) (shift n u2) where
  held := by rw [held_shift n h.cursor_le, held_shift n (h.cursor ▸ h.cursor_le), h.held]
  cursor := congrArg (· - n) h.cursor
  cursor_le := (Nat.sub_le _ _).trans h.cursor_le
  lastReceiveTime := h.lastReceiveTime
  records := h.records
  events := h.events

/-- A found frame makes the same of equal records and link states. -/
theorem sameRecords_frameFound (f : Frame) (now : Time) (h : sameRecords u1 u2) :
    sameRecords (frameFound f now u1) (frameFound f now u2) := by
  obtain ⟨htime, hup, hb, hg, hv, hbaro, ha, hl⟩ := h
  refine ⟨?_, ?_, ?_, ?_, ?_, ?_, ?_, ?_⟩ <;> rw [frameFound, frameFound]
  · rw [dispatch_lastChannelsFrameTime, dispatch_lastChannelsFrameTime, emit_lastChannelsFrameTime, htime]; rfl
  · rw [dispatch_linkIsUp, dispatch_linkIsUp, emit_linkIsUp, hup]; rfl
  · rw [dispatch_battery, dispatch_battery, emit_battery, hb]; rfl
  · rw [dispatch_gps, dispatch_gps, emit_gps, hg]; rfl
  · rw [dispatch_vario, dispatch_vario, emit_vario, hv]; rfl
  · rw [dispatch_baro, dispatch_baro, emit_baro, hbaro]; rfl
  · rw [dispatch_attitude, dispatch_attitude, emit_attitude, ha]; rfl
  · rw [dispatch_linkStats, dispatch_linkStats, emit_linkStats, hl]; rfl

theorem frameFound_held (f : Frame) (now : Time) (s : State) : (frameFound f now s).held = s.held := by
  rw [State.held, frameFound_buf, frameFound_cursor, State.held]

theorem Twin.frameFound (h : Twin e1 e2 u1 u2) (f : Frame) (now : Time) :
    Twin e1 e2 (frameFound f now u1) (frameFound f now u2) where
  held := by rw [frameFound_held, frameFound_held, h.held]
  cursor := by rw [frameFound_cursor, frameFound_cursor, h.cursor]
  cursor_le := by rw [frameFound_cursor]; exact h.cursor_le
  lastReceiveTime := by rw [frameFound_lastReceiveTime, frameFound_lastReceiveTime, h.lastReceiveTime]
  records := sameRecords_frameFound f now h.records
  events := by
    obtain ⟨found, he1, he2⟩ := h.events
    exact ⟨found ++ [f], by rw [frameFound_events, he1, List.append_assoc],
      by rw [frameFound_events, he2, List.append_assoc]⟩

theorem Twin.failsafeCheck (h : Twin e1 e2 u1 u2) (p : Params) (now : Time) :
    Twin e1 e2 (failsafeCheck p now u1) (failsafeCheck p now u2) := by
  obtain ⟨htime, hup, hrecords⟩ := h.records
  rw [failsafeCheck_eq, failsafeCheck_eq]
  exact ⟨h.held, h.cursor, h.cursor_le, h.lastReceiveTime, ⟨htime, by rw [hup, htime], hrecords⟩, h.events⟩

/-! ### The loops -/

/-- What is found at the front depends on the bytes held only. -/
theorem Twin.front_eq (h : Twin e1 e2 u1 u2) (hc : 2 ≤ u1.cursor) : front p u1 = front p u2 := by
  obtain ⟨h1, h2⟩ := h.holds
  rcases candidate_cases (h1.1 ▸ hc) with ⟨first, size, more, heq, hs⟩ | ⟨first, size, more, heq, hs, hl⟩ |
    ⟨f, rest, heq, hs, hl⟩
  all_goals rw [heq] at h1 h2
  · rw [front_of_badLength h1 hs, front_of_badLength h2 hs]
  · rw [front_of_incomplete h1 hs hl, front_of_incomplete h2 hs hl]
  · rw [front_of_complete h1 hs hl, front_of_complete h2 hs hl]

/-- The action on the same finding keeps the lockstep, or there is none in either state. -/
theorem Twin.act (h : Twin e1 e2 u1 u2) (now : Time) (found : Front) :
    (act now u1 found = none ∧ act now u2 found = none) ∨
    ∃ u1' u2', act now u1 found = some u1' ∧ act now u2 found = some u2' ∧ Twin e1 e2 u1' u2' := by
  cases found with
  | incomplete => exact .inl ⟨rfl, rfl⟩
  | badLength => exact .inr ⟨_, _, rfl, rfl, (h.record _ _).shift 1⟩
  | badChecksum => exact .inr ⟨_, _, rfl, rfl, (h.record _ _).shift 1⟩
  | frame f => exact .inr ⟨_, _, rfl, rfl, (h.frameFound f now).shift _⟩

theorem Twin.evaluateLoop (h : Twin e1 e2 u1 u2) (bound k : Nat) :
    (evaluateLoop p now bound k u1).1 = (evaluateLoop p now bound k u2).1 ∧
      Twin e1 e2 (evaluateLoop p now bound k u1).2 (evaluateLoop p now bound k u2).2 := by
  induction bound generalizing k u1 u2 with
  | zero => exact ⟨rfl, h⟩
  | succ bound ih =>
    by_cases hc : u1.cursor < 2
    · rw [evaluateLoop_of_cursor_lt hc, evaluateLoop_of_cursor_lt (h.cursor ▸ hc)]
      exact ⟨rfl, h⟩
    · have hc1 := Nat.not_lt.1 hc
      have hc2 : 2 ≤ u2.cursor := h.cursor ▸ hc1
      by_cases hk : k = p.reprocCap
      · rw [hk, evaluateLoop_of_cap hc1, evaluateLoop_of_cap hc2]
        exact ⟨rfl, h.record _ _⟩
      · rcases h.act now (front p u1) with ⟨hact1, hact2⟩ | ⟨u1', u2', hact1, hact2, h'⟩
        · rw [h.front_eq hc1] at hact2
          rw [evaluateLoop_of_act_none hk hact1, evaluateLoop_of_act_none hk hact2]
          exact ⟨rfl, h⟩
        · rw [h.front_eq hc1] at hact2
          rw [evaluateLoop_of_act hc1 hk hact1, evaluateLoop_of_act hc2 hk hact2]
          exact ih h' (k + 1)

theorem Twin.evaluate (h : Twin e1 e2 u1 u2) (p : Params) (now : Time) :
    (evaluate p now u1).1 = (evaluate p now u2).1 ∧ Twin e1 e2 (evaluate p now u1).2 (evaluate p now u2).2 := by
  rw [Machine.evaluate, Machine.evaluate, h.cursor]
  exact h.evaluateLoop _ _

theorem evaluateAll_succ (p : Params) (now : Time) (bound : Nat) (s : State) :
    evaluateAll p now (bound + 1) s =
      if (evaluate p now s).1 = .done then (evaluate p now s).2
      else evaluateAll p now bound (evaluate p now s).2 := by
  rw [evaluateAll]
  split
  · next he => rw [he, if_pos rfl]
  · next he => rw [he, if_neg nofun]

theorem Twin.evaluateAll (h : Twin e1 e2 u1 u2) (bound : Nat) :
    Twin e1 e2 (evaluateAll p now bound u1) (evaluateAll p now bound u2) := by
  induction bound generalizing u1 u2 with
  | zero => exact h
  | succ bound ih =>
    obtain ⟨hstop, h'⟩ := h.evaluate p now
    rw [evaluateAll_succ, evaluateAll_succ, hstop]
    split
    · exact h'
    · exact ih h'

theorem Twin.flushOne (h : Twin e1 e2 u1 u2) : Twin e1 e2 (flushOne u1) (flushOne u2) := by
  rw [Machine.flushOne, Machine.flushOne, h.cursor]
  split
  · exact h
  · exact (h.record _ _).shift 1

theorem Twin.flushLoop (h : Twin e1 e2 u1 u2) (bound : Nat) :
    Twin e1 e2 (flushLoop p now bound u1) (flushLoop p now bound u2) := by
  induction bound generalizing u1 u2 with
  | zero => exact h
  | succ bound ih =>
    rw [Machine.flushLoop, Machine.flushLoop, h.cursor]
    split
    · exact h
    · exact ih (h.evaluateAll _).flushOne

theorem Twin.timeoutFlush (h : Twin e1 e2 u1 u2) (p : Params) (now : Time) :
    Twin e1 e2 (timeoutFlush p now u1) (timeoutFlush p now u2) := by
  rw [Machine.timeoutFlush, Machine.timeoutFlush, h.cursor, h.lastReceiveTime]
  split
  · exact (h.record _ _).flushLoop _
  · exact h

theorem Twin.poll (h : Twin e1 e2 u1 u2) (p : Params) (now : Time) : Twin e1 e2 (poll p now u1) (poll p now u2) :=
  (h.timeoutFlush p now).failsafeCheck p now

/-! ### Instructions -/

/-- An append that does not fault in one state does not in the other, and keeps the lockstep. -/
theorem Twin.append (h : Twin e1 e2 u1 u2) {b : Byte} {u1' : State} (ha : append b now u1 = .ok u1') :
    ∃ u2', append b now u2 = .ok u2' ∧ Twin e1 e2 u1' u2' := by
  obtain ⟨hc, hheld1, buf1, rfl⟩ := append_ok ha
  have ha2 := append_of_lt (b := b) (now := now) (h.cursor ▸ hc)
  obtain ⟨-, hheld2, -⟩ := append_ok ha2
  refine ⟨_, ha2, ⟨?_, congrArg (· + 1) h.cursor, hc, rfl, h.records, h.events⟩⟩
  rw [hheld1, hheld2, h.held]

theorem Twin.execRxByteWith (h : Twin e1 e2 s1 s2) {b : Byte} (hexec : execRxByteWith p b now s1 = .next t1) :
    ∃ t2, execRxByteWith p b now s2 = .next t2 ∧ Twin e1 e2 t1 t2 := by
  obtain ⟨u1, ha, rfl, -⟩ := rxByte_ok (execRxByteWith_eq_next hexec)
  obtain ⟨u2, ha2, hu⟩ := (h.giveResult .nothing).append ha
  obtain ⟨hc, -⟩ := append_ok ha2
  obtain ⟨u2', ha2', hrx⟩ := execRxByteWith_eq (p := p) (b := b) (now := now) (s := s2) hc
  cases ha2.symm.trans ha2'
  exact ⟨_, hrx, (hu.evaluate p now).2⟩

theorem execRxByteWith_result {b : Byte} (h : execRxByteWith p b now s1 = .next t1) : t1.result = .nothing := by
  obtain ⟨u1, ha, rfl, -⟩ := rxByte_ok (execRxByteWith_eq_next h)
  obtain ⟨-, -, buf, rfl⟩ := append_ok ha
  exact evaluate_result p now _

/-- An instruction but RESET that completes in one state completes in the other with the same result, and keeps the
lockstep. -/
theorem Twin.execWith (h : Twin e1 e2 s1 s2) {i : Instr} (hi : i ≠ .reset) (hexec : execWith p i s1 = .next t1) :
    ∃ t2, execWith p i s2 = .next t2 ∧ Twin e1 e2 t1 t2 ∧ t1.result = t2.result := by
  cases i with
  | reset => exact absurd rfl hi
  | rxByte b now =>
    obtain ⟨t2, hexec2, ht⟩ := h.execRxByteWith hexec
    exact ⟨t2, hexec2, ht, (execRxByteWith_result hexec).trans (execRxByteWith_result hexec2).symm⟩
  | poll now =>
    cases hexec
    exact ⟨_, rfl, (h.giveResult _).poll p now, by rw [poll_result, poll_result]; rfl⟩
  | encChannels | encCommand | crc8 | unpackChannels | frameChannelsOut | frameCommandOut =>
    cases hexec; exact ⟨_, rfl, h.giveResult _, rfl⟩
  | reserved07 | reserved08 | reserved10 | reserved20 | reserved40 | reserved80 => cases hexec
  | frameChannelsIn _ now | frameBattery _ now | frameGps _ now | frameVario _ now | frameBaro _ now
  | frameAttitude _ now | frameLinkStats _ now | frameOtherIn _ _ _ now =>
    cases hexec; exact ⟨_, rfl, (h.frameFound _ now).giveResult _, rfl⟩

/-- Settles O45: RESET reads no state, and every other instruction keeps two such states in lockstep. -/
theorem noRuleReadsTheOutputs : Obligations.NoRuleReadsTheOutputs := by
  intro i s1 s2 t1 hc hsame hexec
  by_cases hi : i = .reset
  · subst hi
    cases hexec
    exact ⟨_, rfl, ⟨rfl, rfl, rfl, rfl, rfl, rfl, rfl, rfl, rfl, rfl, rfl⟩, rfl, .inl ⟨rfl, rfl⟩⟩
  · obtain ⟨hheld, hcursor, htime, hrecords⟩ := hsame
    have h : Twin s1.events s2.events s1 s2 :=
      ⟨hheld, hcursor, hc, htime, hrecords, [], (List.append_nil _).symm, (List.append_nil _).symm⟩
    obtain ⟨t2, hexec2, ht, hresult⟩ := h.execWith (p := Config.params) hi ((execWith_params i s1).trans hexec)
    exact ⟨t2, (execWith_params i s2).symm.trans hexec2, ht.sameEngine, hresult, .inr ht.events⟩

end Sys2Proof.Machine
end
